-- ==== Sys2Proof/Word.lean ====
section
/-! DEFINITION. The value types of the CORE: Bit, Byte, the 16-bit ALU result (00_scope.md R5, 10_state.md R14).
Everything that a test of the hardware could show wrong (bit fields, masks, concatenation) is in
Sys2Proof/Machine/Bits.lean and Sys2Proof/Decode.lean. -/

namespace Sys2Proof

/-- R5: a Bit is "a value constrained to {0,1}". Because the type holds nothing else, a gate input outside it cannot be
presented (R67, U1). -/
abbrev Bit := Bool

/-- R5: a Byte is "an 8-bit unsigned integer in [0,255]", and arithmetic on it wraps. -/
abbrev Byte := BitVec 8

/-- R14: the width of `alu.result`. -/
abbrev Wide := BitVec 16

end Sys2Proof
end

