-- ==== Sys2Proof/Syntax.lean ====
section
/-! DEFINITION. The instructions: one constructor for each row of spec/opcode_table.json (R58). -/

namespace Sys2Proof

/-- A general register by its index, R0 to R7 (10_state.md R17). -/
abbrev Reg := Fin 8

/-- The twelve rows of the opcode table. The four of format I8 are the instructions given to `execute_instruction`
(47_control_cpu.md R176 to R179). The eight of format ALU3 are the values of the ALU's operation select, given with the two
operand bytes to `ALU8Bit.execute` (45_alu.md R130). -/
inductive Instr where
  /-- ADD Rd, Rs1, Rs2 (R176). -/
  | add (dst src1 src2 : Reg)
  /-- SUB Rd, Rs1, Rs2 (R177). -/
  | sub (dst src1 src2 : Reg)
  /-- MUL Rd, Rs1, Rs2 (R178). -/
  | mul (dst src1 src2 : Reg)
  /-- MOV Rd, Rs1, Rs2 (R179): the instruction with opcode 3. -/
  | mov (dst src1 src2 : Reg)
  /-- ALU opcode 0, add (R131). -/
  | aluAdd (a b : Byte)
  /-- ALU opcode 1, subtract (R132). -/
  | aluSub (a b : Byte)
  /-- ALU opcode 2, multiply (R133). -/
  | aluMul (a b : Byte)
  /-- ALU opcode 3, divide (R134). -/
  | aluDiv (a b : Byte)
  /-- ALU opcode 4, float-add (R139). -/
  | aluFadd (a b : Byte)
  /-- ALU opcode 5, float-multiply (R140). -/
  | aluFmul (a b : Byte)
  /-- ALU opcode 6, unmapped (R135). -/
  | aluNop6 (a b : Byte)
  /-- ALU opcode 7, unmapped (R135). -/
  | aluNop7 (a b : Byte)
deriving DecidableEq, Repr

end Sys2Proof
end

