-- ==== Sys2Proof/WellFormed.lean ====
section
/-! DEFINITION. Which instructions exist: an instruction of format I8 names only R0 to R3, because each of its register
fields has two bits (10_state.md R19, 30_encoding.md R48). -/

namespace Sys2Proof

/-- R19: a register that a 2-bit field can name. -/
def Reg.nameable (r : Reg) : Bool := decide (r.val < 4)

/-- The check of one instruction. Every operand pair of an ALU operation is legal (R130). -/
def Instr.wellFormed : Instr → Bool
  | .add d a b => Reg.nameable d && Reg.nameable a && Reg.nameable b
  | .sub d a b => Reg.nameable d && Reg.nameable a && Reg.nameable b
  | .mul d a b => Reg.nameable d && Reg.nameable a && Reg.nameable b
  | .mov d a b => Reg.nameable d && Reg.nameable a && Reg.nameable b
  | .aluAdd _ _ => true
  | .aluSub _ _ => true
  | .aluMul _ _ => true
  | .aluDiv _ _ => true
  | .aluFadd _ _ => true
  | .aluFmul _ _ => true
  | .aluNop6 _ _ => true
  | .aluNop7 _ _ => true

end Sys2Proof
end

