-- ==== Sys2Proof/Decode.lean ====
section
/-! DEFINITION. The encodings of 30_encoding.md (R45 to R52, R55, R58): the decoder, total on any bytes and rejecting by
name, and the encoder written from the same tables. -/

namespace Sys2Proof

/-- The two formats of the table (R58). The entry point that is called selects the format: `execute_instruction` takes an
I8 byte and `ALU8Bit.execute` an ALU3 select with two operand bytes. -/
inductive Format where
  | i8
  | alu3
deriving DecidableEq, Repr

/-- Why a list of bytes is no instruction. Neither is an event of the datapath (R192): the first is a missing argument,
the second an argument wider than its type. -/
inductive DecodeError where
  /-- The bytes end before the instruction does. -/
  | missingByte
  /-- An ALU operation select above 7 (R52, U17: outside the interface). -/
  | selectTooWide
deriving DecidableEq, Repr

/-! ## Format I8 -/

/-- R46: bits 7:6. -/
def fieldOpcode (b : Byte) : BitVec 2 := b.extractLsb' 6 2

/-- R46: bits 5:4. -/
def fieldDst (b : Byte) : BitVec 2 := b.extractLsb' 4 2

/-- R46: bits 3:2. -/
def fieldSrc1 (b : Byte) : BitVec 2 := b.extractLsb' 2 2

/-- R46: bits 1:0. -/
def fieldSrc2 (b : Byte) : BitVec 2 := b.extractLsb' 0 2

/-- R48: a 2-bit field "read as an unsigned index 0..3 into the 8-register file". -/
def regOfField (f : BitVec 2) : Reg := ⟨f.toNat, Nat.lt_of_lt_of_le f.isLt (by decide)⟩

/-- The 2-bit field that names a register; its inverse for the registers R0 to R3. -/
def fieldOfReg (r : Reg) : BitVec 2 := BitVec.ofNat 2 r.val

/-- R47: the instruction of a byte. Every byte is one (R50). -/
def decodeByte (b : Byte) : Instr :=
  match (fieldOpcode b).toNat with
  | 0 => .add (regOfField (fieldDst b)) (regOfField (fieldSrc1 b)) (regOfField (fieldSrc2 b))
  | 1 => .sub (regOfField (fieldDst b)) (regOfField (fieldSrc1 b)) (regOfField (fieldSrc2 b))
  | 2 => .mul (regOfField (fieldDst b)) (regOfField (fieldSrc1 b)) (regOfField (fieldSrc2 b))
  | _ => .mov (regOfField (fieldDst b)) (regOfField (fieldSrc1 b)) (regOfField (fieldSrc2 b))

/-- R55: the byte `64*o + 16*d + 4*s1 + s2`. -/
def encodeByte (o : BitVec 2) (d s1 s2 : Reg) : Byte :=
  BitVec.ofNat 8 (64 * o.toNat + 16 * (fieldOfReg d).toNat + 4 * (fieldOfReg s1).toNat + (fieldOfReg s2).toNat)

/-! ## Format ALU3 -/

/-- R52: the operation of a 3-bit select. -/
def decodeSelect (sel : BitVec 3) (a b : Byte) : Instr :=
  match sel.toNat with
  | 0 => .aluAdd a b
  | 1 => .aluSub a b
  | 2 => .aluMul a b
  | 3 => .aluDiv a b
  | 4 => .aluFadd a b
  | 5 => .aluFmul a b
  | 6 => .aluNop6 a b
  | _ => .aluNop7 a b

/-! ## Bytes -/

/-- The format of an instruction's row. -/
def Instr.format : Instr → Format
  | .add _ _ _ => .i8
  | .sub _ _ _ => .i8
  | .mul _ _ _ => .i8
  | .mov _ _ _ => .i8
  | .aluAdd _ _ => .alu3
  | .aluSub _ _ => .alu3
  | .aluMul _ _ => .alu3
  | .aluDiv _ _ => .alu3
  | .aluFadd _ _ => .alu3
  | .aluFmul _ _ => .alu3
  | .aluNop6 _ _ => .alu3
  | .aluNop7 _ _ => .alu3

/-- The decoder: the instruction the bytes begin with and the bytes after it, or the reason there is none. An I8
instruction is one byte (R45). An ALU operation is written here as the byte of its select and then its operands `a` and
`b` (DESIGN CHOICE, log 5: the table gives the operands no bits). -/
def decode (f : Format) (bytes : List Byte) : Except DecodeError (Instr × List Byte) :=
  match f, bytes with
  | .i8, b :: rest => .ok (decodeByte b, rest)
  | .alu3, sel :: a :: b :: rest =>
    if sel.toNat < 8 then .ok (decodeSelect (sel.setWidth 3) a b, rest) else .error .selectTooWide
  | .i8, [] => .error .missingByte
  | .alu3, _ => .error .missingByte

/-- The encoder: the bytes of a well-formed instruction (R47, R52, R55). -/
def encode : Instr → List Byte
  | .add d s1 s2 => [encodeByte 0 d s1 s2]
  | .sub d s1 s2 => [encodeByte 1 d s1 s2]
  | .mul d s1 s2 => [encodeByte 2 d s1 s2]
  | .mov d s1 s2 => [encodeByte 3 d s1 s2]
  | .aluAdd a b => [0, a, b]
  | .aluSub a b => [1, a, b]
  | .aluMul a b => [2, a, b]
  | .aluDiv a b => [3, a, b]
  | .aluFadd a b => [4, a, b]
  | .aluFmul a b => [5, a, b]
  | .aluNop6 a b => [6, a, b]
  | .aluNop7 a b => [7, a, b]

/-- The format that a word of `nbits` bits is read in: 8 bits are an instruction byte, of which the table's I8 rows alone
are the readings (R58: the ALU3 rows "are not instruction bytes and a decoder of instruction bytes uses the `I8` rows
only"); 3 bits are an ALU3 select, whose operand bytes are then 0; 24 bits are a select byte with both operand bytes. Any
other width is no word of this hardware. DESIGN CHOICE, log 6. -/
def tableFormat (nbits : Nat) : Option Format :=
  match nbits with
  | 3 => some .alu3
  | 8 => some .i8
  | 24 => some .alu3
  | _ => none

/-- The bytes of a word, the first at bits 7:0. -/
def tableBytes (w : Nat) : List Byte :=
  [BitVec.ofNat 8 w, BitVec.ofNat 8 (w / 256), BitVec.ofNat 8 (w / 65536)]

/-- What the decoder reads from a word of the table. A word with a bit above `nbits` is none. -/
def decodeTableWord (nbits w : Nat) : Option Instr :=
  match tableFormat nbits with
  | none => none
  | some f =>
    if w < 2 ^ nbits then
      match decode f (tableBytes w) with
      | .ok (i, _) => some i
      | .error _ => none
    else none

end Sys2Proof
end

