-- ==== Sys2Proof/Config.lean ====
section
/-! DEFINITION. What an implementation fixes: the named parameters of 92_eei_decisions.md ("Parameters in one list"; R221)
with the value the spec takes for each, and the two free values of the spec. The parameters are not state (R10). -/

namespace Sys2Proof.Config

/-- `SUB_BORROW_POLARITY` (R90, D9): `borrow_out` is the raw carry out of bit 7, or its inverse. -/
inductive BorrowPolarity where
  | rawCarry
  | inverted
deriving DecidableEq, Repr

/-- `MUL_ALGORITHM` (R100, D10): the source's truncating shift-and-add, or the exact 16-bit product. -/
inductive MulAlgorithm where
  | truncating
  | exact16
deriving DecidableEq, Repr

/-- `FPU_CLAMP_MANTISSA` (R117, D16): the four mantissa bits of an encoding whose exponent was clamped are 0, or an
unconstrained draw. -/
inductive ClampMantissa where
  | zero
  | any
deriving DecidableEq, Repr

/-- `ALU_OVERFLOW_POLICY` (R138, D20): what the opcodes 1 to 7 do with `overflow`. -/
inductive OverflowPolicy where
  | stale
  | clearOnNonAdd
deriving DecidableEq, Repr

/-- `ALU_CARRY_NO_SOURCE` (R141, D21): `carry` after a unit that has no carry output. -/
inductive CarryNoSource where
  | zero
  | stale
deriving DecidableEq, Repr

/-- `ALU_UNMAPPED_FLAGS` (R135, D22): `carry` and `overflow` after the opcodes 6 and 7. -/
inductive UnmappedFlags where
  | keep
  | clear
deriving DecidableEq, Repr

/-- `OPCODE3_SEMANTICS` (R179, D25): what the instruction named MOV does. -/
inductive Opcode3 where
  | aluDivide
  | copySrc1
deriving DecidableEq, Repr

/-- `RESET_SCOPE` (R207, D33): what `reset()` returns to zero. -/
inductive ResetScope where
  | listed
  | allOwned
deriving DecidableEq, Repr

/-- `FLOAT8_LAYOUT` (R53, D13): for each of the eight bits of a float8 byte's fields, its position in the byte. `e2` is the
exponent's bit of weight 4; `m0` is `mantissa_0`, the fraction bit of weight 1/2. -/
structure Float8Layout where
  sign : Nat
  e2 : Nat
  e1 : Nat
  e0 : Nat
  m0 : Nat
  m1 : Nat
  m2 : Nat
  m3 : Nat
deriving DecidableEq, Repr

/-- R53, the layout the spec takes: sign in bit 7, exponent in bits 6:4, mantissa in bits 3:0, most significant first. -/
def signExponentMantissa : Float8Layout :=
  { sign := 7, e2 := 6, e1 := 5, e0 := 4, m0 := 3, m1 := 2, m2 := 1, m3 := 0 }

/-- The parameters a computed value depends on (R221). -/
structure Params where
  subBorrow : BorrowPolarity
  mulAlgorithm : MulAlgorithm
  float8Layout : Float8Layout
  clampMantissa : ClampMantissa
  overflowPolicy : OverflowPolicy
  carryNoSource : CarryNoSource
  unmappedFlags : UnmappedFlags
  opcode3 : Opcode3
  resetScope : ResetScope
deriving DecidableEq, Repr

/-- The column "taken" of 92_eei_decisions.md: the values the rules of spec/ state their effects with. Logs 10 to 18.
DESIGN CHOICE (the spec's own decisions D9, D10, D13, D16, D20, D21, D22, D25, D33), unsafe. -/
def params : Params :=
  { subBorrow := .rawCarry, mulAlgorithm := .truncating, float8Layout := signExponentMantissa, clampMantissa := .zero,
    overflowPolicy := .stale, carryNoSource := .zero, unmappedFlags := .keep, opcode3 := .aluDivide,
    resetScope := .listed }

/-- `FPU_INDETERMINATE` (R124, D18, U5): the byte of draw `n`. It has no body, so nothing can be proved of its value.
Log 7. -/
opaque freeByte : Nat → Byte

/-- The `last_out` of the block-owned gate instance `g` after the gate-level operation of draw `n` (U22 "any value", N4).
It has no body. Log 8. -/
opaque freeGateOut : Nat → Nat → Bit

end Sys2Proof.Config
end

