-- ==== Sys2Proof/Machine/Bits.lean ====
section
/-! DEFINITION. Bit-vectors as the lists of Bits of 00_scope.md R5 ("index 0 = least-significant bit"), and the masks,
extensions and concatenations of R6. -/

namespace Sys2Proof.Machine

/-- A Bit as the number 0 or 1. -/
def bitVal (b : Bit) : Nat := if b then 1 else 0

/-- R5: the Bits `v[0], ..., v[7]` of a Byte. -/
def bitsOf (v : Byte) : List Bit := (List.range 8).map v.getLsbD

/-- R5: `val(v) = sum over i of v[i] * 2^i`. -/
def bitsVal : List Bit → Nat
  | [] => 0
  | b :: rest => bitVal b + 2 * bitsVal rest

/-- The Byte with the given Bits, least significant first. -/
def byteOfBits (l : List Bit) : Byte := BitVec.ofNat 8 (bitsVal l)

/-- R6: `zext_16`. -/
def zext16 (v : Byte) : Wide := v.setWidth 16

/-- R6: `a ++ b` of two Bytes, "low byte first": `a` in bits 7:0, `b` in bits 15:8 (R95, R134; D38, log 27). -/
def lowFirst (a b : Byte) : Wide := BitVec.append b a

/-- Bits 7:0. -/
def lowByte (v : Wide) : Byte := v.setWidth 8

/-- Bits 15:8. -/
def highByte (v : Wide) : Byte := v.extractLsb' 8 8

/-- R33, R146: `v mod 256`, "the non-negative remainder, for every integer v" (D2, log 26). -/
def maskByte (v : Int) : Byte := BitVec.ofInt 8 v

end Sys2Proof.Machine
end

