-- ==== Sys2Proof/Machine/Gates.lean ====
section
/-! DEFINITION. The gate layer (40_gates.md) and the composite logic built of it (41_composite_logic.md), as functions of
the inputs of one call. What a call leaves behind (`last_out`, a latch's state) is in Sys2Proof/Machine/Ops.lean. -/

namespace Sys2Proof.Machine

/-- R61. -/
def gateAnd (a b : Bit) : Bit :=
  match a, b with
  | true, true => true
  | _, _ => false

/-- R62. -/
def gateOr (a b : Bit) : Bit :=
  match a, b with
  | false, false => false
  | _, _ => true

/-- R63. -/
def gateNot (a : Bit) : Bit :=
  match a with
  | true => false
  | false => true

/-- R64. -/
def gateXor (a b : Bit) : Bit :=
  match a, b with
  | true, false => true
  | false, true => true
  | _, _ => false

/-- R65. -/
def gateNand (a b : Bit) : Bit :=
  match a, b with
  | true, true => false
  | _, _ => true

/-- R66. -/
def gateNor (a b : Bit) : Bit :=
  match a, b with
  | false, false => true
  | _, _ => false

/-- R71: `(sum, carry)`. -/
def halfAdder (a b : Bit) : Bit × Bit := (gateXor a b, gateAnd a b)

/-- R72: `(sum, carry_out)`, "composed from two HalfAdders and one OR gate". -/
def fullAdder (a b carryIn : Bit) : Bit × Bit :=
  let h1 := halfAdder a b
  let h2 := halfAdder h1.1 carryIn
  (h2.1, gateOr h1.2 h2.2)

/-- R74: `(difference, borrow_out)`, "computed as FullAdder(a, NOT(b), borrow_in)". -/
def oneBitSubtractor (a b borrowIn : Bit) : Bit × Bit := fullAdder a (gateNot b) borrowIn

/-- R80: "output = OR(AND(a,NOT(select)), AND(b,select))". -/
def multiplexer2to1 (a b select : Bit) : Bit := gateOr (gateAnd a (gateNot select)) (gateAnd b select)

/-- R76: the state `(Q, Qbar)` after `SRLatch.apply(S, R)`. `Qbar` after set and reset is D5, log 22. -/
def srNext (s r : Bit) (q : Bit × Bit) : Bit × Bit :=
  match s, r with
  | true, false => (true, false)
  | false, true => (false, true)
  | false, false => q
  | true, true => q

/-- R78: the state after `DLatch.apply(data, enable)`, an SRLatch behind "AND-gated set/reset" (D7, log 22). -/
def dNext (data enable : Bit) (q : Bit × Bit) : Bit × Bit :=
  srNext (gateAnd data enable) (gateAnd (gateNot data) enable) q

end Sys2Proof.Machine
end

