-- ==== Sys2Proof/Machine/Arith.lean ====
section
/-! DEFINITION. The 8-bit arithmetic units: adder and subtractor (42_adder_subtractor.md), multiplier and divider
(43_multiplier_divider.md). -/

namespace Sys2Proof.Machine

/-! ## Adder and subtractor -/

/-- R85: FullAdders chained from the least significant Bit up, "threading carry": the sum Bits and the last carry. -/
def rippleCarry : List Bit → List Bit → Bit → List Bit × Bit
  | a :: as, b :: bs, c =>
    let f := fullAdder a b c
    let r := rippleCarry as bs f.2
    (f.1 :: r.1, r.2)
  | _, _, c => ([], c)

/-- R86: "1 iff operand sign bits (bit 7) are equal to each other AND the result's sign bit differs from the operands'". -/
def addOverflow (a b sum : Byte) : Bit := a.getLsbD 7 == b.getLsbD 7 && sum.getLsbD 7 != a.getLsbD 7

/-- The outputs of RippleCarryAdder8Bit. -/
structure AdderOut where
  sum : Byte
  carryOut : Bit
  overflow : Bit
deriving DecidableEq, Repr

/-- R85: RippleCarryAdder8Bit, the carry into bit 0 being 0. -/
def rca8 (a b : Byte) : AdderOut :=
  let r := rippleCarry (bitsOf a) (bitsOf b) false
  let sum := byteOfBits r.1
  { sum := sum, carryOut := r.2, overflow := addOverflow a b sum }

/-- The outputs of TwosComplementSubtractor8Bit. -/
structure SubtractorOut where
  result : Byte
  borrowOut : Bit
deriving DecidableEq, Repr

/-- R90: the borrow output from the last carry (log 10). -/
def borrowOfCarry (p : Config.Params) (c : Bit) : Bit :=
  match p.subBorrow with
  | .rawCarry => c
  | .inverted => gateNot c

/-- R89: TwosComplementSubtractor8Bit, "a + NOT(b) + 1 (carry-in seeded to 1)". -/
def sub8 (p : Config.Params) (a b : Byte) : SubtractorOut :=
  let r := rippleCarry (bitsOf a) ((bitsOf b).map gateNot) true
  { result := byteOfBits r.1, borrowOut := borrowOfCarry p r.2 }

/-! ## Multiplier -/

/-- R96: "a shifted left by i, truncated/padded to 8 bits". -/
def shl8 (a : Byte) (i : Nat) : Byte :=
  byteOfBits ((List.range 8).map fun j => if i ≤ j then a.getLsbD (j - i) else false)

/-- R97: the carry rippled through the Bits of the high byte by HalfAdders; the last carry is dropped (D8, log 31). -/
def rippleIncrement : List Bit → Bit → List Bit
  | [], _ => []
  | h :: hs, c => gateXor h c :: rippleIncrement hs (gateAnd h c)

/-- R97. -/
def inc8 (h : Byte) (c : Bit) : Byte := byteOfBits (rippleIncrement (bitsOf h) c)

/-- R95: the two accumulators of the multiplier. -/
structure MulAcc where
  low : Byte
  high : Byte
deriving DecidableEq, Repr

/-- R95: the loop's body for bit `i` of `b`. -/
def mulStep (a b : Byte) (acc : MulAcc) (i : Nat) : MulAcc :=
  if b.getLsbD i then
    let r := rca8 acc.low (shl8 a i)
    { low := r.sum, high := inc8 acc.high r.carryOut }
  else acc

/-- R95: the truncating shift-and-add product, "16 bits, low byte first". -/
def shiftAndAdd (a b : Byte) : Wide :=
  let acc := (List.range 8).foldl (mulStep a b) { low := 0, high := 0 }
  lowFirst acc.low acc.high

/-- R95, R100: ShiftAndAddMultiplier8Bit under `MUL_ALGORITHM` (log 11). -/
def mul8 (p : Config.Params) (a b : Byte) : Wide :=
  match p.mulAlgorithm with
  | .truncating => shiftAndAdd a b
  | .exact16 => BitVec.ofNat 16 (a.toNat * b.toNat)

/-! ## Divider -/

/-- The outputs of DividerBy8Bit. -/
structure DividerOut where
  quotient : Byte
  remainder : Byte
  divByZero : Bit
deriving DecidableEq, Repr

/-- R102: repeated subtraction with `fuel` iterations left: the quotient and the remainder so far. -/
def divLoop (v : Nat) : Nat → Nat → Nat → Nat × Nat
  | 0, q, r => (q, r)
  | fuel + 1, q, r => if v ≤ r then divLoop v fuel (q + 1) (r - v) else (q, r)

/-- R102: DividerBy8Bit, the loop "capped at 255 iterations". -/
def div8 (dividend divisor : Byte) : DividerOut :=
  if divisor.toNat = 0 then { quotient := 0, remainder := dividend, divByZero := true }
  else
    let r := divLoop divisor.toNat 255 0 dividend.toNat
    { quotient := BitVec.ofNat 8 r.1, remainder := BitVec.ofNat 8 r.2, divByZero := false }

end Sys2Proof.Machine
end

