-- ==== Sys2Proof/Machine/Types.lean ====
section
/-! DEFINITION. The types of the pieces of state, of the host's calls and of what they return. -/

namespace Sys2Proof.Machine

/-! ## Pieces of state -/

/-- R15: "a record {carry, zero, overflow, sign} each a Bit". -/
structure Flags where
  carry : Bit
  zero : Bit
  overflow : Bit
  sign : Bit
deriving DecidableEq, Repr

/-- R14, R15: what ALU8Bit keeps between calls. -/
structure AluState where
  result : Wide
  flags : Flags
deriving DecidableEq, Repr

/-- R16: the status Bits the FPU keeps (D23). -/
structure FpuStatus where
  isZero : Bit
  isInfinity : Bit
deriving DecidableEq, Repr

/-- R57, R167: the names the control unit exposes (D27). -/
inductive OpName where
  | add
  | sub
  | mul
  | mov
deriving DecidableEq, Repr

/-- R23, R24: the control unit's state. -/
structure ControlUnit where
  pc : Byte
  ir : Byte
  opcode : BitVec 2
  dst : BitVec 2
  src1 : BitVec 2
  src2 : BitVec 2
  opName : OpName
deriving DecidableEq, Repr

/-- R157: the labels of the bus records (D28, log 19). -/
inductive Label where
  | none
  | host
  | alu
  | mem
  | reg (i : Reg)
deriving DecidableEq, Repr

/-- R21: the last transfer; the value is recorded "as given, not masked". -/
structure DataBus where
  value : Int
  source : Label
  destination : Label
deriving DecidableEq, Repr

/-- R22: the last address; recorded "as given". -/
structure AddressBus where
  address : Int
  source : Label
deriving DecidableEq, Repr

/-- R12: the state of an SRLatch. -/
structure Latch where
  q : Bit
  qbar : Bit
deriving DecidableEq, Repr

/-- R60: the six gate types. -/
inductive GateKind where
  | and
  | or
  | not
  | xor
  | nand
  | nor
deriving DecidableEq, Repr

/-! ## The FPU's values -/

/-- R111: an element of `Qx`, an exact rational or one of the two infinities (`true` is the negative one). -/
inductive Qx where
  | finite (q : Rat)
  | infinite (negative : Bit)
deriving DecidableEq, Repr

/-! ## What a call returns -/

/-- R175: the record `execute_instruction` returns (D30, log 20). -/
structure ExecRecord where
  result16 : Wide
  resultLow : Byte
  flags : Flags
  opcode : BitVec 2
  dst : BitVec 2
  src1 : BitVec 2
  src2 : BitVec 2
  opName : OpName
  cycles : Nat
  pc : Byte
deriving DecidableEq, Repr

/-- R184: the record the snapshot returns. -/
structure Snapshot where
  pc : Byte
  ir : Byte
  registers : Vector Byte 8
  aluResult : Wide
  flags : Flags
  cycles : Nat
  dataBus : DataBus
  addressBus : AddressBus
  memoryWindow : List Byte
deriving DecidableEq, Repr

/-- The value the last host call returned. -/
inductive Response where
  /-- No call has returned a value (construction), or the operation returns none (R154, R155, R185). -/
  | none
  | bit (b : Bit)
  /-- Two Bits: (sum, carry), (difference, borrow_out) or (Q, Qbar). -/
  | bits (a b : Bit)
  | byte (v : Byte)
  /-- R147: the indicator of a write. -/
  | ok (performed : Bool)
  | bytes (l : List Byte)
  /-- R166. -/
  | decoded (opcode dst src1 src2 : BitVec 2) (opName : OpName)
  /-- R130. -/
  | alu (result : Wide) (flags : Flags)
  /-- R85. -/
  | adder (sum : Byte) (carryOut overflow : Bit)
  /-- R89. -/
  | subtractor (result : Byte) (borrowOut : Bit)
  /-- R95. -/
  | product (p : Wide)
  /-- R102. -/
  | divider (quotient remainder : Byte) (divByZero : Bit)
  /-- R113. -/
  | parsed (value : Qx) (isZero isInfinity : Bit)
  /-- R114. -/
  | encoded (bits : Byte) (isZero isInfinity : Bit)
  /-- R175. -/
  | executed (r : ExecRecord)
  /-- R184. -/
  | snapshot (r : Snapshot)
deriving DecidableEq, Repr

/-! ## The host's calls -/

/-- The inputs of one gate evaluation (R61 to R66). -/
inductive GateInput where
  | and (a b : Bit)
  | or (a b : Bit)
  | not (a : Bit)
  | xor (a b : Bit)
  | nand (a b : Bit)
  | nor (a b : Bit)
deriving DecidableEq, Repr

/-- The host's operations that are no row of the opcode table (R170, R186). Indices, addresses and data of the storage
operations are integers (R9). -/
inductive HostOp where
  /-- R145. -/
  | registerRead (i : Int)
  /-- R146. -/
  | registerWrite (i v : Int)
  /-- R32. -/
  | memoryRead (addr : Int)
  /-- R33. -/
  | memoryWrite (addr v : Int)
  /-- R34. -/
  | memoryReadRange (start : Int) (length : Nat)
  /-- R180. -/
  | loadMemory (addr value : Int)
  /-- R181. -/
  | readMemory (addr : Int)
  /-- R154. -/
  | dataBusTransfer (value : Int) (source destination : Label)
  /-- R155. -/
  | addressBusSet (address : Int) (source : Label)
  /-- R166. -/
  | controlDecode (b : Byte)
  /-- R168. -/
  | incrementPc
  /-- R184. -/
  | snapshot (start : Int) (length : Nat)
  /-- R206. -/
  | resetCall
  /-- R85. -/
  | adder (a b : Byte)
  /-- R89. -/
  | subtractor (a b : Byte)
  /-- R95. -/
  | multiplier (a b : Byte)
  /-- R102. -/
  | divider (dividend divisor : Byte)
  /-- R113. -/
  | fpuParse (b : Byte)
  /-- R114. -/
  | fpuCreate (v : Qx)
  /-- R121. -/
  | fpuAdd (a b : Byte)
  /-- R122. -/
  | fpuMultiply (a b : Byte)
  /-- R71. -/
  | halfAdder (a b : Bit)
  /-- R72. -/
  | fullAdder (a b carryIn : Bit)
  /-- R74. -/
  | oneBitSubtractor (a b borrowIn : Bit)
  /-- R80. -/
  | multiplexer (a b select : Bit)
  /-- R76, on SRLatch instance `n`. -/
  | srLatch (n : Nat) (s r : Bit)
  /-- R78, on DLatch instance `n`. -/
  | dLatch (n : Nat) (data enable : Bit)
  /-- R61 to R66, on instance `n` of that gate type. -/
  | gate (n : Nat) (g : GateInput)
deriving DecidableEq, Repr

/-- One call of the host. The first two run an instruction of the opcode table. -/
inductive HostCall where
  /-- R175: `execute_instruction(byte)`. -/
  | executeInstruction (b : Byte)
  /-- R130: `ALU8Bit.execute(opcode, a, b)`. -/
  | aluExecute (sel : BitVec 3) (a b : Byte)
  | op (o : HostOp)
deriving DecidableEq, Repr

end Sys2Proof.Machine
end

