-- ==== Sys2Proof/Machine/Fpu.lean ====
section
/-! DEFINITION. FloatingPointUnit8Bit (44_fpu.md): the fields of a float8 byte, the values they stand for, and the unit's four
operations. Values are exact (R111, log 21). -/

namespace Sys2Proof.Machine

/-! ## Fields -/

/-- R53: the fields of a float8 byte, the exponent and the mantissa read as unsigned numbers `E` and `M`. -/
structure Float8 where
  sign : Bit
  exponent : Nat
  mantissa : Nat
deriving DecidableEq, Repr

/-- The number `2^k` where the Bit is 1, else 0. -/
def weigh (b : Bit) (k : Nat) : Nat := if b then 2 ^ k else 0

/-- R53: the fields of a byte under `FLOAT8_LAYOUT` (log 12). -/
def float8Fields (l : Config.Float8Layout) (b : Byte) : Float8 :=
  { sign := b.getLsbD l.sign
    exponent := weigh (b.getLsbD l.e2) 2 + weigh (b.getLsbD l.e1) 1 + weigh (b.getLsbD l.e0) 0
    mantissa := weigh (b.getLsbD l.m0) 3 + weigh (b.getLsbD l.m1) 2 + weigh (b.getLsbD l.m2) 1 + weigh (b.getLsbD l.m3) 0 }

/-- R53, R114: the byte with the given fields; `128*sign + 16*E + M` under the layout the spec takes. -/
def float8Byte (l : Config.Float8Layout) (f : Float8) : Byte :=
  BitVec.ofNat 8
    (weigh f.sign l.sign
      + weigh (f.exponent.testBit 2) l.e2 + weigh (f.exponent.testBit 1) l.e1 + weigh (f.exponent.testBit 0) l.e0
      + weigh (f.mantissa.testBit 3) l.m0 + weigh (f.mantissa.testBit 2) l.m1 + weigh (f.mantissa.testBit 1) l.m2
      + weigh (f.mantissa.testBit 0) l.m3)

/-! ## parse -/

/-- `2^k` for an integer `k`. -/
def pow2 : Int → Rat
  | .ofNat k => ((2 ^ k : Nat) : Rat)
  | .negSucc k => 1 / ((2 ^ (k + 1) : Nat) : Rat)

/-- R112: the value of the fields; exponent 0 is zero and exponent 7 an infinity, whatever the mantissa (D14, log 21). -/
def float8Value (f : Float8) : Qx :=
  if f.exponent = 0 then .finite 0
  else if f.exponent = 7 then .infinite f.sign
  else
    let magnitude : Rat := (1 + (f.mantissa : Rat) / 16) * pow2 ((f.exponent : Int) - 3)
    .finite (if f.sign then -magnitude else magnitude)

/-- The outputs of `parse`. -/
structure FpuParsed where
  value : Qx
  isZero : Bit
  isInfinity : Bit
deriving DecidableEq, Repr

/-- R113. -/
def fpuParse (p : Config.Params) (b : Byte) : FpuParsed :=
  let f := float8Fields p.float8Layout b
  { value := float8Value f, isZero := decide (f.exponent = 0), isInfinity := decide (f.exponent = 7) }

/-! ## create_from_float -/

/-- The outputs of the encoding operations, with the number of the next free value. -/
structure FpuOut where
  bits : Byte
  isZero : Bit
  isInfinity : Bit
  draws : Nat
deriving DecidableEq, Repr

/-- Whether `2^k ≤ n/d`, in natural numbers. -/
def pow2Le (k : Int) (n d : Nat) : Bool :=
  match k with
  | .ofNat e => decide (2 ^ e * d ≤ n)
  | .negSucc e => decide (d ≤ n * 2 ^ (e + 1))

/-- R115: for `x > 0`, "the unique integer `L` with `2^L <= x < 2^(L+1)`". The two bit lengths give `L` or `L + 1`, and one
comparison decides. -/
def flog2 (x : Rat) : Int :=
  let n := x.num.natAbs
  let guess : Int := (Nat.log2 n : Int) - (Nat.log2 x.den : Int)
  if pow2Le guess n x.den then guess else guess - 1

/-- R116: the loop's body for fraction bit `i`: the mantissa so far and the fraction left. The comparison is `>=` (D15,
log 21). -/
def greedyStep (acc : Nat × Rat) (i : Nat) : Nat × Rat :=
  let w : Rat := 1 / ((2 ^ (i + 1) : Nat) : Rat)
  if w ≤ acc.2 then (acc.1 + 2 ^ (3 - i), acc.2 - w) else acc

/-- R116: "greedy binary-fraction extraction (4 bits, most significant first)". -/
def greedy4 (f : Rat) : Nat := ((List.range 4).foldl greedyStep (0, f)).1

/-- R117: the mantissa of a clamped encoding and the number of the next free value (`FPU_CLAMP_MANTISSA`, log 13). -/
def clampedMantissa (p : Config.Params) (draws : Nat) : Nat × Nat :=
  match p.clampMantissa with
  | .zero => (0, draws)
  | .any => ((Config.freeByte draws).toNat % 16, draws + 1)

/-- R114: the byte of the fields and the status Bits of its exponent. -/
def fpuEncode (p : Config.Params) (f : Float8) (draws : Nat) : FpuOut :=
  { bits := float8Byte p.float8Layout f, isZero := decide (f.exponent = 0), isInfinity := decide (f.exponent = 7),
    draws := draws }

/-- R114, R117: the encoding of a finite value that is not 0. -/
def fpuEncodeFinite (p : Config.Params) (draws : Nat) (q : Rat) : FpuOut :=
  let sign : Bit := decide (q < 0)
  let a : Rat := if q < 0 then -q else q
  let l := flog2 a
  let e := l + 3
  if e ≤ 0 then
    let m := clampedMantissa p draws
    fpuEncode p { sign := sign, exponent := 0, mantissa := m.1 } m.2
  else if 7 ≤ e then
    let m := clampedMantissa p draws
    fpuEncode p { sign := sign, exponent := 7, mantissa := m.1 } m.2
  else fpuEncode p { sign := sign, exponent := e.toNat, mantissa := greedy4 (a / pow2 l - 1) } draws

/-- R114, with R118 for zero and R119 for an infinity: `create_from_float`. -/
def fpuCreate (p : Config.Params) (draws : Nat) : Qx → FpuOut
  | .finite q =>
    if q = 0 then fpuEncode p { sign := false, exponent := 0, mantissa := 0 } draws else fpuEncodeFinite p draws q
  | .infinite negative => fpuEncode p { sign := negative, exponent := 7, mantissa := 0 } draws

/-! ## add and multiply -/

/-- R121, R123: the sum handed to the encoder; `none` for the indeterminate forms of R124 (D17, log 21). -/
def qxAdd : Qx → Qx → Option Qx
  | .finite x, .finite y => some (.finite (x + y))
  | .infinite s, .finite _ => some (.infinite s)
  | .finite _, .infinite t => some (.infinite t)
  | .infinite s, .infinite t => if s = t then some (.infinite s) else none

/-- R122, R123: the product handed to the encoder; "infinity with sign = XOR of the two signs", "The sign of a finite value is 1
iff it is negative"; `none` for the indeterminate forms of R124. -/
def qxMul : Qx → Qx → Option Qx
  | .finite x, .finite y => some (.finite (x * y))
  | .infinite s, .finite y => if y = 0 then none else some (.infinite (s ^^ decide (y < 0)))
  | .finite x, .infinite t => if x = 0 then none else some (.infinite (decide (x < 0) ^^ t))
  | .infinite s, .infinite t => some (.infinite (s ^^ t))

/-- R124: the byte of an indeterminate form is the free value of this draw (D18, U5). The status Bits are "properties of the
last encoding handled" (R125), so they are read from that byte's exponent. Log 7. -/
def fpuIndeterminate (p : Config.Params) (draws : Nat) : FpuOut :=
  let b := Config.freeByte draws
  let f := float8Fields p.float8Layout b
  { bits := b, isZero := decide (f.exponent = 0), isInfinity := decide (f.exponent = 7), draws := draws + 1 }

/-- R121 to R124: what an operation returns for the value it computed, or for none. -/
def fpuFinish (p : Config.Params) (draws : Nat) : Option Qx → FpuOut
  | some v => fpuCreate p draws v
  | none => fpuIndeterminate p draws

/-- R121. -/
def fpuAdd (p : Config.Params) (draws : Nat) (a b : Byte) : FpuOut :=
  fpuFinish p draws (qxAdd (fpuParse p a).value (fpuParse p b).value)

/-- R122. -/
def fpuMultiply (p : Config.Params) (draws : Nat) (a b : Byte) : FpuOut :=
  fpuFinish p draws (qxMul (fpuParse p a).value (fpuParse p b).value)

end Sys2Proof.Machine
end

