-- ==== Sys2Proof/Machine/Store.lean ====
section
/-! DEFINITION. A sparse table of plain data: pairs of a number and a value in one canonical form (numbers strictly rising, no
entry equal to the value `d` that an unlisted number reads as), so that equal tables are equal lists. Memory, the latches and
the gate outputs of State are such tables. -/

namespace Sys2Proof.Machine

/-- The value at `n`; `d` where nothing is listed. -/
def storeRead {α : Type} (d : α) : List (Nat × α) → Nat → α
  | [], _ => d
  | (k, v) :: rest, n => if k = n then v else storeRead d rest n

/-- An entry put in front, or none where it would say what an unlisted number reads as. -/
def storeCons {α : Type} [DecidableEq α] (d : α) (n : Nat) (v : α) (rest : List (Nat × α)) : List (Nat × α) :=
  if v = d then rest else (n, v) :: rest

/-- The table with `v` at `n`, in canonical form where it was in it before. -/
def storeWrite {α : Type} [DecidableEq α] (d : α) : List (Nat × α) → Nat → α → List (Nat × α)
  | [], n, v => storeCons d n v []
  | (k, w) :: rest, n, v =>
    if n < k then storeCons d n v ((k, w) :: rest)
    else if n = k then storeCons d n v rest
    else (k, w) :: storeWrite d rest n v

/-- The canonical form. -/
def storeWf {α : Type} [DecidableEq α] (d : α) : List (Nat × α) → Bool
  | [] => true
  | (k, v) :: rest => decide (v ≠ d) && rest.all (fun c => decide (k < c.1)) && storeWf d rest

end Sys2Proof.Machine
end

