-- ==== Sys2Proof/Machine/State.lean ====
section
/-! DEFINITION. The state of the machine (10_state.md R10), its value at construction (R29, R205), and the reasons a step can
stop, of which this hardware has none (60_exceptions.md R190). -/

namespace Sys2Proof.Machine

/-- R20: the listed bytes of memory; an unlisted address of 0 to 255 reads `memoryDefault`. -/
abbrev Memory := List Host.Cell

/-- R29: "zeroed state", so a byte nothing has written reads 0. -/
def memoryDefault : Byte := 0

/-- R12: a latch nothing has written holds (0, 1). -/
def latchDefault : Latch := { q := false, qbar := true }

/-- R11: a gate that has not been evaluated shows 0. -/
def gateOutDefault : Bit := false

/-- The canonical form of memory, every address being one of 0 to 255 (R20, R30). -/
def Memory.wf (m : Memory) : Bool := storeWf memoryDefault m && m.all (fun c => decide (c.1 < 256))

/-- The whole state. The last three fields are the model's own (logs 1, 3, 7). -/
structure State where
  /-- R17: the general registers. -/
  x : Vector Byte 8
  /-- R20. -/
  mem : Memory
  /-- R14, R15. -/
  alu : AluState
  /-- R23, R24. -/
  cu : ControlUnit
  /-- R25: unbounded (D32, log 24). -/
  cycles : Nat
  /-- R21. -/
  dbus : DataBus
  /-- R22. -/
  abus : AddressBus
  /-- R16. -/
  fpu : FpuStatus
  /-- R12: the SRLatch instances, by number (log 9). -/
  srLatches : List (Nat × Latch)
  /-- R13: the internal SRLatch of each DLatch instance, by number (log 9). -/
  dLatches : List (Nat × Latch)
  /-- R11: `last_out` of the gate instances the host evaluates itself, by number (log 9); none of them is one a block owns (log 33). -/
  gateOut : List (Nat × Bit)
  /-- R11: `last_out` of the gate instances blocks own: `none` while no gate-level operation has run since construction,
  when all are 0, else the draw that gives their values (U22, N4; log 8). -/
  ownedGates : Option Nat
  /-- The calls the host makes next (R8, R187; log 1). -/
  calls : List HostCall
  /-- The value the last call returned (R200; log 3). -/
  response : Response
  /-- The number of the next free value (log 7). -/
  draws : Nat
deriving DecidableEq, Repr

/-- Faults. There is none: "a model's step function for this hardware has no fault outcome" (R190), and there is no trap
to take or to return from (R195). Safe: nothing stops by a fault. -/
inductive Fault where
deriving DecidableEq, Repr

/-- Refusals. -/
inductive Refusal where
  /-- Raised by an arm of `exec` for an instruction that has no meaning yet; no arm raises it now. Safe: the machine stops
  where the hardware goes on. -/
  | notModelled (mnemonic : String)
deriving DecidableEq, Repr

/-- R29, R205: the state at construction, the hardware's power-on. It is not the state that the operation `reset()` leaves
in general (R207): that one is `State.resetCall` of Sys2Proof/Machine/Ops.lean. Log 4. -/
def State.reset : State :=
  { x := Vector.replicate 8 0
    mem := []
    alu := { result := 0, flags := { carry := false, zero := false, overflow := false, sign := false } }
    cu := { pc := 0, ir := 0, opcode := 0, dst := 0, src1 := 0, src2 := 0, opName := .add }
    cycles := 0
    dbus := { value := 0, source := .none, destination := .none }
    abus := { address := 0, source := .none }
    fpu := { isZero := false, isInfinity := false }
    srLatches := []
    dLatches := []
    gateOut := []
    ownedGates := none
    calls := []
    response := .none
    draws := 0 }

end Sys2Proof.Machine
end

