-- ==== Sys2Proof/Machine/Ops.lean ====
section
/-! DEFINITION. The named operations over the state: register file, memory and buses (20_memory.md, 46_regfile_memory_buses.md),
control unit and counter (47_control_cpu.md), latches and gate outputs, `reset()` and the snapshot. There is no taking of an
exception and no return from one: "no component raises" (60_exceptions.md R190) and "No trap entry, no trap return" (R195). -/

namespace Sys2Proof.Machine

/-! ## Register file -/

/-- A general register by its index (R17). -/
def State.reg (s : State) (r : Reg) : Byte := s.x[r.val]

/-- `x[r] <- v`. -/
def State.setReg (s : State) (r : Reg) (v : Byte) : State := { s with x := s.x.set r.val v }

/-- R145, R146: the register an integer index names, none outside 0..7. -/
def regOfIndex (i : Int) : Option Reg :=
  if h : 0 ≤ i ∧ i < 8 then some ⟨i.toNat, by omega⟩ else none

/-- R145: `RegisterFile.read(i)`; 0 for an index outside 0..7. -/
def State.registerRead (s : State) (i : Int) : Byte :=
  match regOfIndex i with
  | some r => s.reg r
  | none => 0

/-- R146: the state after `RegisterFile.write(i, v)`. -/
def State.registerWrite (s : State) (i v : Int) : State :=
  match regOfIndex i with
  | some r => s.setReg r (maskByte v)
  | none => s

/-- R146, R147: the indicator of `RegisterFile.write` (D42, log 20). -/
def registerWriteOk (i : Int) : Bool := (regOfIndex i).isSome

/-! ## Memory -/

/-- One byte of memory (R20). -/
def Memory.read (m : Memory) (a : Nat) : Byte := storeRead memoryDefault m a

/-- One byte of memory written, the canonical form kept. -/
def Memory.write (m : Memory) (a : Nat) (v : Byte) : Memory := storeWrite memoryDefault m a v

/-- R32, R33: whether an integer is an address, 0 to 255. -/
def isAddress (a : Int) : Bool := decide (0 ≤ a ∧ a ≤ 255)

/-- R32: `Memory.read(addr)`; 0 for an address outside [0,255]. -/
def State.memoryRead (s : State) (a : Int) : Byte := if isAddress a then Memory.read s.mem a.toNat else 0

/-- R33: the state after `Memory.write(addr, v)`; `isAddress addr` is its indicator. -/
def State.memoryWrite (s : State) (a v : Int) : State :=
  if isAddress a then { s with mem := Memory.write s.mem a.toNat (maskByte v) } else s

/-- R34: `Memory.read_range(start, length)`, "addresses are taken modulo 256". -/
def State.memoryReadRange (s : State) (start : Int) (length : Nat) : List Byte :=
  (List.range length).map fun (k : Nat) => Memory.read s.mem ((start + (k : Int)) % 256).toNat

/-! ## Buses -/

/-- R154: `DataBus.transfer`. -/
def State.transfer (s : State) (value : Int) (source destination : Label) : State :=
  { s with dbus := { value := value, source := source, destination := destination } }

/-- R155: `AddressBus.set_address`. -/
def State.setAddress (s : State) (address : Int) (source : Label) : State :=
  { s with abus := { address := address, source := source } }

/-- R180: `load_memory`, which records the access on both buses, also where the write is refused (D29, D31, logs 19, 20). -/
def State.loadMemory (s : State) (a v : Int) : State :=
  ((s.setAddress a .host).transfer v .host .mem).memoryWrite a v

/-- R181: `read_memory`. -/
def State.readMemory (s : State) (a : Int) : State :=
  (s.setAddress a .host).transfer (s.memoryRead a).toNat .mem .host

/-! ## Control unit and counter -/

/-- R167: the name of an opcode. -/
def opNameOf (o : BitVec 2) : OpName :=
  match o.toNat with
  | 0 => .add
  | 1 => .sub
  | 2 => .mul
  | _ => .mov

/-- R166: the control unit after `decode`; the program counter is kept (D26, log 23). -/
def ControlUnit.decoded (c : ControlUnit) (b : Byte) : ControlUnit :=
  { pc := c.pc, ir := b, opcode := fieldOpcode b, dst := fieldDst b, src1 := fieldSrc1 b, src2 := fieldSrc2 b,
    opName := opNameOf (fieldOpcode b) }

/-- R166: the state after `ControlUnit.decode`. -/
def State.controlDecode (s : State) (b : Byte) : State := { s with cu := s.cu.decoded b }

/-- R168: "advances the program counter modulo 256 (wraps silently)". -/
def State.incrementPc (s : State) : State := { s with cu := { s.cu with pc := s.cu.pc + 1 } }

/-- R25, R175: `cycles <- cycles + 1`. -/
def State.countCycle (s : State) : State := { s with cycles := s.cycles + 1 }

/-! ## Gate outputs and latches -/

/-- R61 to R66: the output of one gate evaluation. -/
def GateInput.output : GateInput → Bit
  | .and a b => gateAnd a b
  | .or a b => gateOr a b
  | .not a => gateNot a
  | .xor a b => gateXor a b
  | .nand a b => gateNand a b
  | .nor a b => gateNor a b

/-- The type of the gate that is evaluated. -/
def GateInput.kind : GateInput → GateKind
  | .and _ _ => .and
  | .or _ _ => .or
  | .not _ => .not
  | .xor _ _ => .xor
  | .nand _ _ => .nand
  | .nor _ _ => .nor

/-- The number of instance `n` of a gate type in `gateOut` (log 9). -/
def gateNumber (k : GateKind) (n : Nat) : Nat :=
  6 * n +
    match k with
    | .and => 0
    | .or => 1
    | .not => 2
    | .xor => 3
    | .nand => 4
    | .nor => 5

/-- R11, R200: `last_out` of a gate instance the host evaluates itself. -/
def State.lastOut (s : State) (k : GateKind) (n : Nat) : Bit := storeRead gateOutDefault s.gateOut (gateNumber k n)

/-- R68: an evaluation "does `g.last_out <- r` and returns `r`". -/
def State.evalGate (s : State) (n : Nat) (g : GateInput) : State :=
  { s with gateOut := storeWrite gateOutDefault s.gateOut (gateNumber g.kind n) g.output }

/-- R11, R200: `last_out` of block-owned gate instance `g`: 0 at construction, and after a gate-level operation any value
(U22, N4; log 8). -/
def State.ownedLastOut (s : State) (g : Nat) : Bit :=
  match s.ownedGates with
  | none => gateOutDefault
  | some k => Config.freeGateOut k g

/-- R70: a block has evaluated gates of its own; which ones, and so what they show now, is not in the source (N4): the values
are those of a new draw. Log 8. DESIGN CHOICE, log 33: none of them is a gate instance the host evaluates itself, so `gateOut` stays. -/
def State.evalOwnedGates (s : State) : State := { s with ownedGates := some s.draws, draws := s.draws + 1 }

/-- The state of SRLatch instance `n` (R12). -/
def State.srLatch (s : State) (n : Nat) : Latch := storeRead latchDefault s.srLatches n

/-- The state of DLatch instance `n`'s internal SRLatch (R13). -/
def State.dLatch (s : State) (n : Nat) : Latch := storeRead latchDefault s.dLatches n

/-- R76: a latch after `apply(S, R)`. -/
def Latch.applySr (l : Latch) (set reset : Bit) : Latch :=
  let q := srNext set reset (l.q, l.qbar)
  { q := q.1, qbar := q.2 }

/-- R78: a latch after a DLatch's `apply(data, enable)`. -/
def Latch.applyD (l : Latch) (data enable : Bit) : Latch :=
  let q := dNext data enable (l.q, l.qbar)
  { q := q.1, qbar := q.2 }

/-- R76: `SRLatch.apply` on instance `n`. -/
def State.applySrLatch (s : State) (n : Nat) (set reset : Bit) : State :=
  { s with srLatches := storeWrite latchDefault s.srLatches n ((s.srLatch n).applySr set reset) }

/-- R78: `DLatch.apply` on instance `n`. -/
def State.applyDLatch (s : State) (n : Nat) (data enable : Bit) : State :=
  { s with dLatches := storeWrite latchDefault s.dLatches n ((s.dLatch n).applyD data enable) }

/-! ## FPU status -/

/-- R16, R114: the status Bits of an encoding are kept, and the draws it made are used up. -/
def State.setFpu (s : State) (o : FpuOut) : State :=
  { s with fpu := { isZero := o.isZero, isInfinity := o.isInfinity }, draws := o.draws }

/-- R113: the status Bits of a parse are kept. -/
def State.setParsed (s : State) (o : FpuParsed) : State :=
  { s with fpu := { isZero := o.isZero, isInfinity := o.isInfinity } }

/-! ## Return values, snapshot and reset -/

/-- The call returns `r` to the host (log 3). -/
def State.respond (s : State) (r : Response) : State := { s with response := r }

/-- R184: the record of the snapshot. -/
def State.snapshot (s : State) (start : Int) (length : Nat) : Snapshot :=
  { pc := s.cu.pc, ir := s.cu.ir, registers := s.x, aluResult := s.alu.result, flags := s.alu.flags, cycles := s.cycles,
    dataBus := s.dbus, addressBus := s.abus, memoryWindow := s.memoryReadRange start length }

/-- R206: what `reset()` zeroes: registers, memory, control unit and cycle counter. -/
def State.resetListed (s : State) : State :=
  { s with x := State.reset.x, mem := State.reset.mem, cu := State.reset.cu, cycles := State.reset.cycles }

/-- R206, R207: the host operation `reset()` under `RESET_SCOPE` (log 18). -/
def State.resetCall (p : Config.Params) (s : State) : State :=
  match p.resetScope with
  | .listed => s.resetListed
  | .allOwned =>
    { s.resetListed with alu := State.reset.alu, dbus := State.reset.dbus, abus := State.reset.abus }

end Sys2Proof.Machine
end

