-- ==== Sys2Proof/Machine/Flags.lean ====
section
/-! DEFINITION. The flags of the ALU (45_alu.md R136 to R138, R141). -/

namespace Sys2Proof.Machine

/-- R136: "`zero` = 1 iff all of the low 8 result bits are 0". -/
def zeroOf (result : Wide) : Bit := decide (lowByte result = 0)

/-- R136: "`sign` = bit 7 of the result". -/
def signOf (result : Wide) : Bit := result.getLsbD 7

/-- R141: `carry` on the paths whose unit has no carry output (`ALU_CARRY_NO_SOURCE`, log 15). -/
def carryNoSource (p : Config.Params) (old : Bit) : Bit :=
  match p.carryNoSource with
  | .zero => false
  | .stale => old

/-- R138: `overflow` on every path but add (`ALU_OVERFLOW_POLICY`, log 14). -/
def overflowNonAdd (p : Config.Params) (old : Bit) : Bit :=
  match p.overflowPolicy with
  | .stale => old
  | .clearOnNonAdd => false

/-- R135: a flag that the opcodes 6 and 7 have no source for (`ALU_UNMAPPED_FLAGS`, log 16). -/
def unmappedFlag (p : Config.Params) (old : Bit) : Bit :=
  match p.unmappedFlags with
  | .keep => old
  | .clear => false

/-- A path writes the result, `carry` and `overflow` (R137). -/
def State.setAlu (s : State) (result : Wide) (carry overflow : Bit) : State :=
  { s with alu := { result := result, flags := { s.alu.flags with carry := carry, overflow := overflow } } }

/-- R136: after the path, `zero` and `sign` from the result. -/
def State.finishFlags (s : State) : State :=
  { s with alu := { s.alu with flags := { s.alu.flags with zero := zeroOf s.alu.result, sign := signOf s.alu.result } } }

end Sys2Proof.Machine
end

