-- ==== Sys2Proof/Machine/Operands.lean ====
section
/-! DEFINITION. The operand forms: a register of format I8 (30_encoding.md R48), the two operand bytes of an ALU call (45_alu.md
R130), and the eight paths of the ALU over them (R131 to R135, R139, R140, R142). -/

namespace Sys2Proof.Machine

/-- R175: the read of a source register of an instruction. -/
def State.sourceOperand (s : State) (r : Reg) : Byte := s.registerRead r.val

/-- R131: path 0, add. -/
def aluPathAdd (a b : Byte) (s : State) : State :=
  let r := rca8 a b
  s.evalOwnedGates.setAlu (zext16 r.sum) r.carryOut r.overflow

/-- R132: path 1, subtract. -/
def aluPathSub (p : Config.Params) (a b : Byte) (s : State) : State :=
  let r := sub8 p a b
  s.evalOwnedGates.setAlu (zext16 r.result) r.borrowOut (overflowNonAdd p s.alu.flags.overflow)

/-- R133: path 2, multiply. -/
def aluPathMul (p : Config.Params) (a b : Byte) (s : State) : State :=
  s.evalOwnedGates.setAlu (mul8 p a b) (carryNoSource p s.alu.flags.carry) (overflowNonAdd p s.alu.flags.overflow)

/-- R134: path 3, divide; the quotient in bits 7:0. The divider "uses integer semantics, not gate-level subtraction" (R102), so
no gate is evaluated. -/
def aluPathDiv (p : Config.Params) (a b : Byte) (s : State) : State :=
  let r := div8 a b
  s.setAlu (lowFirst r.quotient r.remainder) r.divByZero (overflowNonAdd p s.alu.flags.overflow)

/-- R139: path 4, float-add. -/
def aluPathFadd (p : Config.Params) (a b : Byte) (s : State) : State :=
  let o := fpuAdd p s.draws a b
  (s.setFpu o).setAlu (zext16 o.bits) (carryNoSource p s.alu.flags.carry) (overflowNonAdd p s.alu.flags.overflow)

/-- R140: path 5, float-multiply. -/
def aluPathFmul (p : Config.Params) (a b : Byte) (s : State) : State :=
  let o := fpuMultiply p s.draws a b
  (s.setFpu o).setAlu (zext16 o.bits) (carryNoSource p s.alu.flags.carry) (overflowNonAdd p s.alu.flags.overflow)

/-- R135: opcodes 6 and 7; "leave the previous result unchanged", and the operands are ignored. Two parameters speak of `overflow` here
(R135, R138), and the spec does not say which wins where one keeps and the other clears: the model clears if either does, which happens only
under values the spec does not take. DESIGN CHOICE, log 32. -/
def aluPathUnmapped (p : Config.Params) (s : State) : State :=
  s.setAlu s.alu.result (unmappedFlag p s.alu.flags.carry) (overflowNonAdd p (unmappedFlag p s.alu.flags.overflow))

/-- R142: the end of `ALU8Bit.execute`: `zero` and `sign`, and the return of the result and the flags. -/
def State.aluReturn (s : State) : State :=
  let t := s.finishFlags
  t.respond (.alu t.alu.result t.alu.flags)

/-- R175: the record `execute_instruction` returns, from the state after it. -/
def State.execRecord (s : State) : ExecRecord :=
  { result16 := s.alu.result, resultLow := lowByte s.alu.result, flags := s.alu.flags, opcode := s.cu.opcode, dst := s.cu.dst,
    src1 := s.cu.src1, src2 := s.cu.src2, opName := s.cu.opName, cycles := s.cycles, pc := s.cu.pc }

/-- R175: the common tail: the low byte `low` to the destination register, the data bus record (D29, log 19), `cycles`, the
program counter, and the return of the record (D30, log 20). -/
def State.instructionTail (s : State) (dst : Reg) (low : Byte) (source : Label) : State :=
  let t := (((s.setReg dst low).transfer low.toNat source (.reg dst)).countCycle).incrementPc
  t.respond (.executed t.execRecord)

/-- R173, R175: `execute_instruction` for the opcode `o` whose ALU path is `path`: decode, read both sources, ALU, write-back,
tail. The ALU opcode is the instruction's, zero-extended (R49; D24, log 27), which is what choosing the path by the opcode says. -/
def executeWith (o : BitVec 2) (path : Byte → Byte → State → State) (d s1 s2 : Reg) (s : State) : State :=
  let a := s.sourceOperand s1
  let b := s.sourceOperand s2
  let t := (path a b (s.controlDecode (encodeByte o d s1 s2))).finishFlags
  t.instructionTail d (lowByte t.alu.result) .alu

/-- R179 under `OPCODE3_SEMANTICS = copy_src1`, which the spec does not take: `x[d] <- x[s1]` "with the ALU not called". "the
source gives no flag or bus behaviour for that reading": flags and result are kept and the transfer is recorded from the
source register. The returned record is `State.execRecord` of the state afterwards, so its `resultLow` is the low byte of the kept
`alu.result`, not the byte moved to `x[d]`. DESIGN CHOICE, log 17. -/
def executeCopy (d s1 s2 : Reg) (s : State) : State :=
  (s.controlDecode (encodeByte 3 d s1 s2)).instructionTail d (s.sourceOperand s1) (.reg s1)

/-- R179: opcode 3 under `OPCODE3_SEMANTICS`. -/
def executeOpcode3 (p : Config.Params) (d s1 s2 : Reg) (s : State) : State :=
  match p.opcode3 with
  | .aluDivide => executeWith 3 (aluPathDiv p) d s1 s2 s
  | .copySrc1 => executeCopy d s1 s2 s

end Sys2Proof.Machine
end

