-- ==== Sys2Proof/Machine/AluOperations.lean ====
section
/-! DEFINITION. The eight operations of format ALU3, each the host's call `ALU8Bit.execute(opcode, a, b)` (45_alu.md R130, R142).
A direct call "changes `alu.result` and `alu.flags` but no register, bus or counter" (R186). -/

namespace Sys2Proof.Machine

/-- ALU_ADD (R131). -/
def execAluAdd (a b : Byte) (s : State) : Host.Outcome State Fault Refusal :=
  .next (aluPathAdd a b s).aluReturn

/-- ALU_SUB (R132). -/
def execAluSub (a b : Byte) (s : State) : Host.Outcome State Fault Refusal :=
  .next (aluPathSub Config.params a b s).aluReturn

/-- ALU_MUL (R133). -/
def execAluMul (a b : Byte) (s : State) : Host.Outcome State Fault Refusal :=
  .next (aluPathMul Config.params a b s).aluReturn

/-- ALU_DIV (R134). -/
def execAluDiv (a b : Byte) (s : State) : Host.Outcome State Fault Refusal :=
  .next (aluPathDiv Config.params a b s).aluReturn

/-- ALU_FADD (R139). -/
def execAluFadd (a b : Byte) (s : State) : Host.Outcome State Fault Refusal :=
  .next (aluPathFadd Config.params a b s).aluReturn

/-- ALU_FMUL (R140). -/
def execAluFmul (a b : Byte) (s : State) : Host.Outcome State Fault Refusal :=
  .next (aluPathFmul Config.params a b s).aluReturn

/-- ALU_NOP6 (R135): `a` and `b` are ignored. -/
def execAluNop6 (_a _b : Byte) (s : State) : Host.Outcome State Fault Refusal :=
  .next (aluPathUnmapped Config.params s).aluReturn

/-- ALU_NOP7 (R135): `a` and `b` are ignored. -/
def execAluNop7 (_a _b : Byte) (s : State) : Host.Outcome State Fault Refusal :=
  .next (aluPathUnmapped Config.params s).aluReturn

end Sys2Proof.Machine
end

