-- ==== Sys2Proof/Machine/Instructions.lean ====
section
/-! DEFINITION. The four instructions of format I8 (47_control_cpu.md R175 to R179). None of them faults (R190). -/

namespace Sys2Proof.Machine

/-- ADD (R176). -/
def execAdd (d s1 s2 : Reg) (s : State) : Host.Outcome State Fault Refusal :=
  .next (executeWith 0 aluPathAdd d s1 s2 s)

/-- SUB (R177). -/
def execSub (d s1 s2 : Reg) (s : State) : Host.Outcome State Fault Refusal :=
  .next (executeWith 1 (aluPathSub Config.params) d s1 s2 s)

/-- MUL (R178). -/
def execMul (d s1 s2 : Reg) (s : State) : Host.Outcome State Fault Refusal :=
  .next (executeWith 2 (aluPathMul Config.params) d s1 s2 s)

/-- MOV (R179): the instruction named MOV divides (C2, D25, log 17). -/
def execMov (d s1 s2 : Reg) (s : State) : Host.Outcome State Fault Refusal :=
  .next (executeOpcode3 Config.params d s1 s2 s)

end Sys2Proof.Machine
end

