-- ==== Sys2Proof/Machine/Dispatch.lean ====
section
/-! DEFINITION. One arm for each constructor of Instr. -/

namespace Sys2Proof.Machine

def exec (i : Instr) (s : State) : Host.Outcome State Fault Refusal :=
  match i with
  | .add d a b => Sys2Proof.Machine.execAdd d a b s
  | .sub d a b => Sys2Proof.Machine.execSub d a b s
  | .mul d a b => Sys2Proof.Machine.execMul d a b s
  | .mov d a b => Sys2Proof.Machine.execMov d a b s
  | .aluAdd a b => Sys2Proof.Machine.execAluAdd a b s
  | .aluSub a b => Sys2Proof.Machine.execAluSub a b s
  | .aluMul a b => Sys2Proof.Machine.execAluMul a b s
  | .aluDiv a b => Sys2Proof.Machine.execAluDiv a b s
  | .aluFadd a b => Sys2Proof.Machine.execAluFadd a b s
  | .aluFmul a b => Sys2Proof.Machine.execAluFmul a b s
  | .aluNop6 a b => Sys2Proof.Machine.execAluNop6 a b s
  | .aluNop7 a b => Sys2Proof.Machine.execAluNop7 a b s

end Sys2Proof.Machine
end

