-- ==== Sys2Proof/Machine/HostOps.lean ====
section
/-! DEFINITION. The host's operations that are no row of the opcode table (47_control_cpu.md R180 to R186), each "with the effect
its rule states and no other" (R186), and the calls that stand for a word of the table. -/

namespace Sys2Proof.Machine

/-- R113: `parse` called directly. -/
def hostParse (b : Byte) (s : State) : State :=
  let o := fpuParse Config.params b
  (s.setParsed o).respond (.parsed o.value o.isZero o.isInfinity)

/-- R114: `create_from_float` called directly. -/
def hostCreate (v : Qx) (s : State) : State :=
  let o := fpuCreate Config.params s.draws v
  (s.setFpu o).respond (.encoded o.bits o.isZero o.isInfinity)

/-- R121: the FPU's `add` called directly. -/
def hostFpuAdd (a b : Byte) (s : State) : State :=
  let o := fpuAdd Config.params s.draws a b
  (s.setFpu o).respond (.byte o.bits)

/-- R122: the FPU's `multiply` called directly. -/
def hostFpuMultiply (a b : Byte) (s : State) : State :=
  let o := fpuMultiply Config.params s.draws a b
  (s.setFpu o).respond (.byte o.bits)

/-- R76: `SRLatch.apply` called directly. -/
def hostSrLatch (n : Nat) (set reset : Bit) (s : State) : State :=
  let t := (s.applySrLatch n set reset).evalOwnedGates
  t.respond (.bits (t.srLatch n).q (t.srLatch n).qbar)

/-- R78: `DLatch.apply` called directly. -/
def hostDLatch (n : Nat) (data enable : Bit) (s : State) : State :=
  let t := (s.applyDLatch n data enable).evalOwnedGates
  t.respond (.bits (t.dLatch n).q (t.dLatch n).qbar)

/-- R166: `ControlUnit.decode` called directly. -/
def hostDecode (b : Byte) (s : State) : State :=
  let t := s.controlDecode b
  t.respond (.decoded t.cu.opcode t.cu.dst t.cu.src1 t.cu.src2 t.cu.opName)

/-- R168: `increment_pc` called directly. -/
def hostIncrementPc (s : State) : State :=
  let t := s.incrementPc
  t.respond (.byte t.cu.pc)

/-- One operation of the host. -/
def hostOp (o : HostOp) (s : State) : State :=
  match o with
  | .registerRead i => s.respond (.byte (s.registerRead i))
  | .registerWrite i v => (s.registerWrite i v).respond (.ok (registerWriteOk i))
  | .memoryRead a => s.respond (.byte (s.memoryRead a))
  | .memoryWrite a v => (s.memoryWrite a v).respond (.ok (isAddress a))
  | .memoryReadRange start length => s.respond (.bytes (s.memoryReadRange start length))
  | .loadMemory a v => (s.loadMemory a v).respond (.ok (isAddress a))
  | .readMemory a => (s.readMemory a).respond (.byte (s.memoryRead a))
  | .dataBusTransfer v src dst => (s.transfer v src dst).respond .none
  | .addressBusSet a src => (s.setAddress a src).respond .none
  | .controlDecode b => hostDecode b s
  | .incrementPc => hostIncrementPc s
  | .snapshot start length => s.respond (.snapshot (s.snapshot start length))
  | .resetCall => (s.resetCall Config.params).respond .none
  | .adder a b => s.evalOwnedGates.respond (.adder (rca8 a b).sum (rca8 a b).carryOut (rca8 a b).overflow)
  | .subtractor a b =>
    s.evalOwnedGates.respond (.subtractor (sub8 Config.params a b).result (sub8 Config.params a b).borrowOut)
  | .multiplier a b => s.evalOwnedGates.respond (.product (mul8 Config.params a b))
  | .divider a b => s.respond (.divider (div8 a b).quotient (div8 a b).remainder (div8 a b).divByZero)
  | .fpuParse b => hostParse b s
  | .fpuCreate v => hostCreate v s
  | .fpuAdd a b => hostFpuAdd a b s
  | .fpuMultiply a b => hostFpuMultiply a b s
  | .halfAdder a b => s.evalOwnedGates.respond (.bits (halfAdder a b).1 (halfAdder a b).2)
  | .fullAdder a b c => s.evalOwnedGates.respond (.bits (fullAdder a b c).1 (fullAdder a b c).2)
  | .oneBitSubtractor a b c => s.evalOwnedGates.respond (.bits (oneBitSubtractor a b c).1 (oneBitSubtractor a b c).2)
  | .multiplexer a b select => s.evalOwnedGates.respond (.bit (multiplexer2to1 a b select))
  | .srLatch n set reset => hostSrLatch n set reset s
  | .dLatch n data enable => hostDLatch n data enable s
  | .gate n g => (s.evalGate n g).respond (.bit g.output)

/-- The call that runs a word of the opcode table (log 6): an 8-bit word is given to `execute_instruction`, an ALU3 word to
`ALU8Bit.execute`. -/
def callOfTableWord (nbits w : Nat) : Option HostCall :=
  if w < 2 ^ nbits then
    match tableFormat nbits with
    | some .i8 => some (.executeInstruction (BitVec.ofNat 8 w))
    | some .alu3 =>
      if w % 256 < 8 then
        some (.aluExecute (BitVec.ofNat 3 w) (BitVec.ofNat 8 (w / 256)) (BitVec.ofNat 8 (w / 65536)))
      else none
    | none => none
  else none

end Sys2Proof.Machine
end

