-- ==== Sys2Proof/Machine/Step.lean ====
section
/-! DEFINITION. One step of the machine: the host's next call (00_scope.md R8). There is no fetch: "the instruction executed is
exactly the byte the host passes to `execute_instruction` in that call" (20_memory.md R42). -/

namespace Sys2Proof.Machine

/-- One call of the host, made in state `s`. -/
def performCall (c : HostCall) (s : State) : Host.Outcome State Fault Refusal :=
  match c with
  | .executeInstruction b => exec (decodeByte b) s
  | .aluExecute sel a b => exec (decodeSelect sel a b) s
  | .op o => .next (hostOp o s)

/-- The next call leaves the list and is made; where the host makes no call, nothing happens (R8: state changes only in calls;
log 2). -/
def step (s : State) : Host.Outcome State Fault Refusal :=
  match s.calls with
  | [] => .next s
  | c :: rest => performCall c { s with calls := rest }

/-- The state in which the host's next call runs the given word of the opcode table (logs 1, 6). A word that is none leaves the
state alone. -/
def State.withFetchWord (s : State) (nbits w : Nat) : State :=
  match callOfTableWord nbits w with
  | some c => { s with calls := c :: s.calls }
  | none => s

end Sys2Proof.Machine
end

