-- ==== Sys2Proof/Safety.lean ====
section
/-! DEFINITION. The terms the claims use: completing, what an instruction leaves alone, the invariant of the machine, and states
that agree but for one observation-only record. -/

namespace Sys2Proof.Machine

/-! ## Values -/

/-- R5: `sval(v) = val(v) - 256 * v[7]`. -/
def sval (v : Byte) : Int := (v.toNat : Int) - (if v.getLsbD 7 then 256 else 0)

/-- Whether an exact signed result is outside `[-128, 127]` (R87). -/
def signedOverflow (n : Int) : Bool := decide (n < -128 ∨ 127 < n)

/-! ## Outcomes -/

/-- A step that answers a next state (R190: every one does). -/
def Completes (o : Host.Outcome State Fault Refusal) : Prop := ∃ t, o = .next t

/-! ## Frames -/

/-- Every byte of memory reads as before. -/
def SameMemory (s t : State) : Prop := ∀ a : Int, t.memoryRead a = s.memoryRead a

/-- Every register but `d` is as before. -/
def SameRegistersExcept (d : Reg) (s t : State) : Prop := ∀ r : Reg, r ≠ d → t.reg r = s.reg r

/-- Every register is as before. -/
def SameRegisters (s t : State) : Prop := ∀ r : Reg, t.reg r = s.reg r

/-- Every latch instance is as before. -/
def SameLatches (s t : State) : Prop := ∀ n, t.srLatch n = s.srLatch n ∧ t.dLatch n = s.dLatch n

/-- `last_out` of every gate instance the host holds is as before. -/
def SameGateOutputs (s t : State) : Prop := ∀ k n, t.lastOut k n = s.lastOut k n

/-- `last_out` of every gate instance a block owns is as before. -/
def SameOwnedOutputs (s t : State) : Prop := ∀ g, t.ownedLastOut g = s.ownedLastOut g

/-- The step completes, the next call is made and returns `r`, and nothing else changes but what gates inside the called block show
(the draw that gives their values, log 8). -/
def OnlyReturns (s : State) (rest : List HostCall) (r : Response) : Prop :=
  ∃ g k, step s = .next { s with calls := rest, ownedGates := g, draws := k, response := r }

/-- The step completes, the next call is made and returns `r`, instance `n` of gate type `k` then shows `r`, every other instance the host
evaluates shows what it showed, and nothing else changes (R68). -/
def EvaluatesGate (s : State) (rest : List HostCall) (k : GateKind) (n : Nat) (r : Bit) : Prop :=
  ∃ g, step s = .next { s with calls := rest, gateOut := g, response := .bit r } ∧
    storeRead gateOutDefault g (gateNumber k n) = r ∧
    ∀ j m, (j, m) ≠ (k, n) → storeRead gateOutDefault g (gateNumber j m) = s.lastOut j m

/-! ## The machine's invariant -/

/-- R24, R26: the decoded fields and the name are those of the instruction register. -/
def ControlUnit.consistent (c : ControlUnit) : Bool :=
  decide (c.opcode = fieldOpcode c.ir ∧ c.dst = fieldDst c.ir ∧ c.src1 = fieldSrc1 c.ir ∧ c.src2 = fieldSrc2 c.ir ∧
    c.opName = opNameOf c.opcode)

/-- R77: "In every reachable state `Qbar = NOT(Q)`". -/
def Latch.complementary (l : Latch) : Bool := l.qbar == !l.q

/-- A table of latches in canonical form, each latch complementary. -/
def latchesWf (l : List (Nat × Latch)) : Bool := storeWf latchDefault l && l.all (fun e => e.2.complementary)

/-- R143: "`zero = 1` implies `sign = 0`". -/
def Flags.consistent (f : Flags) : Bool := !(f.zero && f.sign)

/-- The draw behind the owned gate outputs has been made. -/
def State.drawsFresh (s : State) : Bool :=
  match s.ownedGates with
  | none => true
  | some k => decide (k < s.draws)

/-- The invariant: memory, latches and gate outputs in canonical form, latches complementary, the control unit's fields those of
its instruction register, zero and sign not both set. -/
def State.inv (s : State) : Bool :=
  Memory.wf s.mem && latchesWf s.srLatches && latchesWf s.dLatches && storeWf gateOutDefault s.gateOut && s.cu.consistent &&
    s.alu.flags.consistent && s.drawsFresh

/-- R197: `cycles mod 256 = cu.pc`. -/
def State.pcTracksCycles (s : State) : Bool := decide (s.cycles % 256 = s.cu.pc.toNat)

/-! ## Records that decide nothing -/

/-- `s` with other bus records. -/
def State.withBuses (s : State) (d : DataBus) (a : AddressBus) : State := { s with dbus := d, abus := a }

/-- `s` with other flags. -/
def State.withFlags (s : State) (f : Flags) : State := { s with alu := { s.alu with flags := f } }

/-- `s` with other gate outputs, of both kinds. -/
def State.withGateOutputs (s : State) (g : List (Nat × Bit)) (o : Option Nat) : State :=
  { s with gateOut := g, ownedGates := o }

/-- `s` with another last return value. -/
def State.withResponse (s : State) (r : Response) : State := { s with response := r }

/-- Whether a call is the snapshot. -/
def HostCall.isSnapshot : HostCall → Bool
  | .op (.snapshot _ _) => true
  | _ => false

/-- Whether a call is an instruction (R25: the only call that counts a cycle). -/
def HostCall.isInstruction : HostCall → Bool
  | .executeInstruction _ => true
  | _ => false

/-- Whether a call may write memory: `Memory.write`, `load_memory` and `reset` (R10). -/
def HostCall.writesMemory : HostCall → Bool
  | .op (.memoryWrite _ _) => true
  | .op (.loadMemory _ _) => true
  | .op .resetCall => true
  | _ => false

/-- Whether a call may write R4 to R7: `RegisterFile.write` and `reset` (R19). -/
def HostCall.writesUpperRegisters : HostCall → Bool
  | .op (.registerWrite _ _) => true
  | .op .resetCall => true
  | _ => false

end Sys2Proof.Machine
end

