-- ==== Sys2Proof/Certificates/Slice0/Obligations.lean ====
section
/-! DEFINITION. The statements for the provers, in the order of spec/'s files: encodings, logic, arithmetic units, ALU, instructions,
float8 unit, storage and buses, control unit and counters, reset, and the rules over the whole machine. Each docstring names the
rule or the section it formalises; where a clause rests on a decision of the spec or on a choice of the model, it says so. -/

open Sys2Proof Sys2Proof.Machine

/-! ## Encodings (30_encoding.md) -/

/-- Decoding the encoding of a well-formed instruction gives it back, with the bytes after it left over (section 1 and 2 of
30_encoding.md; the operand bytes of an ALU operation are the model's choice, log 5). -/
def Obligations.DecodeAfterEncode : Prop :=
  ∀ (i : Instr) (rest : List Byte), i.wellFormed = true → decode i.format (encode i ++ rest) = .ok (i, rest)

/-- Whatever the decoder accepts is a well-formed instruction of the asked format, and its encoding is exactly the bytes consumed; the
decoder refuses only a list that is too short or, for an ALU operation, a select above 7 (the reasons are the model's names, log 5). -/
def Obligations.EncodeAfterDecode : Prop :=
  ∀ (f : Format) (bytes : List Byte),
    match decode f bytes with
    | .ok (i, rest) => i.wellFormed = true ∧ i.format = f ∧ encode i ++ rest = bytes
    | .error .missingByte => bytes.length < (if f = .i8 then 1 else 3)
    | .error .selectTooWide => f = .alu3 ∧ 3 ≤ bytes.length ∧ 8 ≤ (bytes.headD 0).toNat

/-- R46, R47: the four 2-bit fields of an instruction byte, and the instruction each opcode selects. -/
def Obligations.InstructionByteFields : Prop :=
  ∀ b : Byte, ∃ d s1 s2 : Reg,
    d.val = b.toNat / 16 % 4 ∧ s1.val = b.toNat / 4 % 4 ∧ s2.val = b.toNat % 4 ∧
      (b.toNat / 64 = 0 → decodeByte b = .add d s1 s2) ∧ (b.toNat / 64 = 1 → decodeByte b = .sub d s1 s2) ∧
      (b.toNat / 64 = 2 → decodeByte b = .mul d s1 s2) ∧ (b.toNat / 64 = 3 → decodeByte b = .mov d s1 s2) ∧
      b.toNat / 64 < 4 ∧ b.toNat = 64 * (b.toNat / 64) + 16 * d.val + 4 * s1.val + s2.val

/-- Words written out from the encodings decode to the instructions they stand for: one byte of each opcode of format I8 (30_encoding.md
section 1: the source's ADD R2, R0, R1 = 0b00_10_00_01, and bytes of 95_test_vectors.md 2.10), and each of the eight operation selects
(30_encoding.md section 2) with every pair of operands. That the operands are the two bytes after the select's is the model's choice
(log 5). -/
def Obligations.SampleWordsDecode : Prop :=
  (decodeByte 0b00100001 = .add 2 0 1 ∧ decodeByte 0b01111000 = .sub 3 2 0 ∧ decodeByte 0b10001111 = .mul 0 3 3 ∧
    decodeByte 0b11100100 = .mov 2 1 0) ∧
    ∀ a b : Byte,
      decode .alu3 [0b000, a, b] = .ok (.aluAdd a b, []) ∧ decode .alu3 [0b001, a, b] = .ok (.aluSub a b, []) ∧
        decode .alu3 [0b010, a, b] = .ok (.aluMul a b, []) ∧ decode .alu3 [0b011, a, b] = .ok (.aluDiv a b, []) ∧
        decode .alu3 [0b100, a, b] = .ok (.aluFadd a b, []) ∧ decode .alu3 [0b101, a, b] = .ok (.aluFmul a b, []) ∧
        decode .alu3 [0b110, a, b] = .ok (.aluNop6 a b, []) ∧ decode .alu3 [0b111, a, b] = .ok (.aluNop7 a b, [])

/-- A step runs the decoded instruction: the host's next call leaves the list, and if its bytes decode to an instruction, that one is
executed in the state without the call. Any other operation of the host is made in the same way, and without a call nothing
happens (00_scope.md section 4; that the calls stand in a list is the model's choice, logs 1 and 2). -/
def Obligations.StepRunsDecodedInstruction : Prop :=
  (∀ (s : State) (rest : List HostCall) (b : Byte) (i : Instr), s.calls = .executeInstruction b :: rest →
      decode .i8 [b] = .ok (i, []) → i.wellFormed = true ∧ step s = exec i { s with calls := rest }) ∧
    (∀ (s : State) (rest : List HostCall) (sel : BitVec 3) (a b : Byte) (i : Instr), s.calls = .aluExecute sel a b :: rest →
      decode .alu3 [sel.setWidth 8, a, b] = .ok (i, []) → i.wellFormed = true ∧ step s = exec i { s with calls := rest }) ∧
    (∀ (s : State) (rest : List HostCall) (o : HostOp), s.calls = .op o :: rest →
      step s = .next (hostOp o { s with calls := rest })) ∧
    (∀ s : State, s.calls = [] → step s = .next s)

/-- The call that stands for a word of the opcode table runs the instruction the decoder reads from that word, in the state it was
made in; the words of format I8 are the 8-bit ones and every one of them is read (model's choice, log 6). -/
def Obligations.FetchWordRunsTableWord : Prop :=
  (∀ (s : State) (nbits w : Nat) (i : Instr), decodeTableWord nbits w = some i →
      step (s.withFetchWord nbits w) = exec i s) ∧
    (∀ b : Byte, decodeTableWord 8 b.toNat = some (decodeByte b)) ∧
    (∀ sel : BitVec 3, decodeTableWord 3 sel.toNat = some (decodeSelect sel 0 0))

/-! ## Gates and composite logic (40_gates.md, 41_composite_logic.md) -/

/-- The arithmetic of the gates and of the combinational blocks (40_gates.md section 1, 41_composite_logic.md sections 2, 3 and 5; the
gates' tables are the standard ones, PRESUMED in log 28). -/
def Obligations.LogicBlocksCompute : Prop :=
  ∀ a b c : Bit,
    bitVal (gateAnd a b) = bitVal a * bitVal b ∧ bitVal (gateOr a b) + bitVal a * bitVal b = bitVal a + bitVal b ∧
      bitVal (gateNot a) = 1 - bitVal a ∧ bitVal (gateXor a b) = (bitVal a + bitVal b) % 2 ∧
      bitVal (gateNand a b) = 1 - bitVal a * bitVal b ∧ bitVal (gateNor a b) = (1 - bitVal a) * (1 - bitVal b) ∧
      bitVal a + bitVal b = bitVal (halfAdder a b).1 + 2 * bitVal (halfAdder a b).2 ∧
      bitVal a + bitVal b + bitVal c = bitVal (fullAdder a b c).1 + 2 * bitVal (fullAdder a b c).2 ∧
      bitVal a + (1 - bitVal b) + bitVal c = bitVal (oneBitSubtractor a b c).1 + 2 * bitVal (oneBitSubtractor a b c).2 ∧
      multiplexer2to1 a b c = if c then b else a

/-- 40_gates.md section 2: evaluating gate instance `n` returns its output and leaves it in `last_out` of that instance and of no other; `last_out` is 0
at construction, `reset()` does not change it, and nothing reads it: with other gate outputs every step does the same (the scope of `reset()` is the spec's decision D33, log 18; the numbering of instances
is the model's, log 9; what block-owned gates show after an operation is free, log 8). The evaluation changes nothing but that output, the call
and the value returned; that it leaves block-owned outputs alone is the model's choice (log 33). -/
def Obligations.GateOutputRegister : Prop :=
  (∀ (s : State) (n : Nat) (g : GateInput) (rest : List HostCall), s.inv = true → s.calls = .op (.gate n g) :: rest →
      ∃ t, step s = .next t ∧ t.response = .bit g.output ∧ t.lastOut g.kind n = g.output ∧
        (∀ k m, (k, m) ≠ (g.kind, n) → t.lastOut k m = s.lastOut k m) ∧
        t = { s with calls := rest, gateOut := t.gateOut, response := .bit g.output }) ∧
    (∀ k n, State.reset.lastOut k n = false) ∧ (∀ g, State.reset.ownedLastOut g = false) ∧
    (∀ s : State, SameGateOutputs s (s.resetCall Config.params) ∧ SameOwnedOutputs s (s.resetCall Config.params)) ∧
    (∀ (s : State) (g : List (Nat × Bit)) (o : Option Nat), ∃ t t', step s = .next t ∧
      step (s.withGateOutputs g o) = .next t' ∧ t'.withGateOutputs t.gateOut t.ownedGates = t)

/-- 40_gates.md sections 1 and 2: for each of the six gates, what the host's evaluation of instance `n` returns, by its arithmetic, and that this
is what the instance of that gate type then shows, every other instance showing what it showed and nothing else changing. The gates' tables are
the standard ones (PRESUMED, log 28), instance numbers are the model's (log 9), and that block-owned outputs stay is its choice (log 33). -/
def Obligations.GateCallsReturnOutputs : Prop :=
  ∀ (s : State) (n : Nat) (a b : Bit) (rest : List HostCall), s.inv = true →
    (s.calls = .op (.gate n (.and a b)) :: rest → ∃ r, EvaluatesGate s rest .and n r ∧ bitVal r = bitVal a * bitVal b) ∧
    (s.calls = .op (.gate n (.or a b)) :: rest →
      ∃ r, EvaluatesGate s rest .or n r ∧ bitVal r + bitVal a * bitVal b = bitVal a + bitVal b) ∧
    (s.calls = .op (.gate n (.not a)) :: rest → ∃ r, EvaluatesGate s rest .not n r ∧ bitVal r = 1 - bitVal a) ∧
    (s.calls = .op (.gate n (.xor a b)) :: rest → ∃ r, EvaluatesGate s rest .xor n r ∧ bitVal r = (bitVal a + bitVal b) % 2) ∧
    (s.calls = .op (.gate n (.nand a b)) :: rest → ∃ r, EvaluatesGate s rest .nand n r ∧ bitVal r = 1 - bitVal a * bitVal b) ∧
    (s.calls = .op (.gate n (.nor a b)) :: rest →
      ∃ r, EvaluatesGate s rest .nor n r ∧ bitVal r = (1 - bitVal a) * (1 - bitVal b))

/-- 41_composite_logic.md section 4: set, reset and hold of an SRLatch, inputs (1,1) leaving it unchanged; the other latches, the
registers, memory, ALU, control unit, cycles, buses, FPU status, the gates the host holds and the remaining calls are untouched. That `Qbar` is
the complement after set and reset is the spec's decision D5 (log 22); that the gates the host holds are none of the latch's is the model's
choice (log 33), and what the latch's own gates show is free (log 8). -/
def Obligations.SrLatchTransitions : Prop :=
  ∀ (s : State) (n : Nat) (set reset : Bit) (rest : List HostCall), s.inv = true →
    s.calls = .op (.srLatch n set reset) :: rest →
      ∃ t, step s = .next t ∧
        t.srLatch n = (if set && !reset then { q := true, qbar := false }
          else if reset && !set then { q := false, qbar := true } else s.srLatch n) ∧
        t.response = .bits (t.srLatch n).q (t.srLatch n).qbar ∧
        (∀ m, m ≠ n → t.srLatch m = s.srLatch m) ∧ (∀ m, t.dLatch m = s.dLatch m) ∧
        SameRegisters s t ∧ SameMemory s t ∧ t.alu = s.alu ∧ t.cu = s.cu ∧ t.cycles = s.cycles ∧
        t.dbus = s.dbus ∧ t.abus = s.abus ∧ t.fpu = s.fpu ∧ SameGateOutputs s t ∧ t.calls = rest

/-- 41_composite_logic.md section 4: a DLatch is transparent when enabled and holds otherwise; the other latches, the registers, memory, ALU,
control unit, cycles, buses, FPU status, the gates the host holds and the remaining calls are untouched. The gating is the spec's decision D7
(log 22); that the gates the host holds are none of the latch's is the model's choice (log 33), and what the latch's own gates show is free
(log 8). -/
def Obligations.DLatchTransitions : Prop :=
  ∀ (s : State) (n : Nat) (data enable : Bit) (rest : List HostCall), s.inv = true →
    s.calls = .op (.dLatch n data enable) :: rest →
      ∃ t, step s = .next t ∧
        t.dLatch n = (if enable then { q := data, qbar := !data } else s.dLatch n) ∧
        t.response = .bits (t.dLatch n).q (t.dLatch n).qbar ∧
        (∀ m, m ≠ n → t.dLatch m = s.dLatch m) ∧ (∀ m, t.srLatch m = s.srLatch m) ∧
        SameRegisters s t ∧ SameMemory s t ∧ t.alu = s.alu ∧ t.cu = s.cu ∧ t.cycles = s.cycles ∧
        t.dbus = s.dbus ∧ t.abus = s.abus ∧ t.fpu = s.fpu ∧ SameGateOutputs s t ∧ t.calls = rest

/-! ## Arithmetic units (42_adder_subtractor.md, 43_multiplier_divider.md) -/

/-- R87: the chain of FullAdders adds. -/
def Obligations.AdderMatchesArithmetic : Prop :=
  ∀ a b : Byte,
    (rca8 a b).sum.toNat = (a.toNat + b.toNat) % 256 ∧ ((rca8 a b).carryOut = true ↔ 256 ≤ a.toNat + b.toNat) ∧
      ((rca8 a b).overflow = true ↔ sval a + sval b < -128 ∨ 127 < sval a + sval b) ∧
      a.toNat + b.toNat = (rca8 a b).sum.toNat + 256 * bitVal (rca8 a b).carryOut

/-- 42_adder_subtractor.md section 2: the subtractor subtracts under either polarity, and `borrow_out` is 1 iff `a >= b` under
`raw_carry` and iff `a < b` under `inverted` (the polarity is the spec's decision D9, log 10). -/
def Obligations.SubtractorMatchesArithmetic : Prop :=
  ∀ (p : Config.Params) (a b : Byte),
    (((sub8 p a b).result.toNat : Int) = ((a.toNat : Int) - b.toNat) % 256) ∧
      (p.subBorrow = .rawCarry → ((sub8 p a b).borrowOut = true ↔ b.toNat ≤ a.toNat)) ∧
      (p.subBorrow = .inverted → ((sub8 p a b).borrowOut = true ↔ a.toNat < b.toNat))

/-- 43_multiplier_divider.md section 1, the closed form the spec derives: the truncating product is the sum of the shifted operands,
each reduced modulo 256. -/
def Obligations.MultiplierClosedForm : Prop :=
  ∀ a b : Byte,
    (shiftAndAdd a b).toNat =
      ((List.range 8).map fun i => if b.getLsbD i then a.toNat * 2 ^ i % 256 else 0).sum

/-- 43_multiplier_divider.md section 1, what the spec derives of the product: the low byte is exact under either algorithm, the high byte
is at most 7 under the truncating one, which also commutes and is exact just when an operand is 0 or the positions of the highest set
bits add up to at most 7. -/
def Obligations.MultiplierLowByteExact : Prop :=
  ∀ a b : Byte,
    (∀ p : Config.Params, (lowByte (mul8 p a b)).toNat = a.toNat * b.toNat % 256) ∧
      (highByte (shiftAndAdd a b)).toNat ≤ 7 ∧ shiftAndAdd a b = shiftAndAdd b a ∧
      ((shiftAndAdd a b).toNat = a.toNat * b.toNat ↔
        a = 0 ∨ b = 0 ∨ Nat.log2 a.toNat + Nat.log2 b.toNat ≤ 7)

/-- 43_multiplier_divider.md section 2: quotient and remainder for every dividend and every divisor but 0, for which the quotient is 0, the
remainder the dividend and the flag 1 (that the flag is a Bit is the spec's decision D11). -/
def Obligations.DividerDivides : Prop :=
  ∀ d v : Byte,
    (v ≠ 0 → (div8 d v).quotient.toNat = d.toNat / v.toNat ∧ (div8 d v).remainder.toNat = d.toNat % v.toNat ∧
        (div8 d v).divByZero = false ∧
        d.toNat = v.toNat * (div8 d v).quotient.toNat + (div8 d v).remainder.toNat ∧
        (div8 d v).remainder.toNat < v.toNat) ∧
      (v = 0 → div8 d v = { quotient := 0, remainder := d, divByZero := true })

/-- The host's calls of the arithmetic units and of the composite blocks (47_control_cpu.md section 6, 41_composite_logic.md,
42_adder_subtractor.md, 43_multiplier_divider.md): each completes in every state, returns the outputs of its unit, and changes nothing but the call,
the value returned and, but for the divider, what gates inside the unit show (any value, log 8; that the gates the host holds are none of them is
the model's choice, log 33). That the host may call them is the spec's decision D34 (log 29), the polarity D9 (log 10), the algorithm D10 (log
11), the flag D11 (log 31), the gates' tables are PRESUMED (log 28). -/
def Obligations.UnitCallsReturnOutputs : Prop :=
  ∀ (s : State) (rest : List HostCall),
    (∀ a b : Byte, s.calls = .op (.adder a b) :: rest → ∃ sum c v, OnlyReturns s rest (.adder sum c v) ∧
      sum.toNat = (a.toNat + b.toNat) % 256 ∧ c = decide (256 ≤ a.toNat + b.toNat) ∧ v = signedOverflow (sval a + sval b)) ∧
    (∀ a b : Byte, s.calls = .op (.subtractor a b) :: rest → ∃ r bo, OnlyReturns s rest (.subtractor r bo) ∧
      (r.toNat : Int) = ((a.toNat : Int) - b.toNat) % 256 ∧ bo = decide (b.toNat ≤ a.toNat)) ∧
    (∀ a b : Byte, s.calls = .op (.multiplier a b) :: rest → ∃ p, OnlyReturns s rest (.product p) ∧
      p.toNat = ((List.range 8).map fun i => if b.getLsbD i then a.toNat * 2 ^ i % 256 else 0).sum) ∧
    (∀ d v : Byte, s.calls = .op (.divider d v) :: rest → ∃ q r,
      step s = .next { s with calls := rest, response := .divider q r (decide (v = 0)) } ∧
      q.toNat = d.toNat / v.toNat ∧ r.toNat = d.toNat % v.toNat) ∧
    (∀ a b : Bit, s.calls = .op (.halfAdder a b) :: rest → ∃ x y, OnlyReturns s rest (.bits x y) ∧
      bitVal a + bitVal b = bitVal x + 2 * bitVal y) ∧
    (∀ a b c : Bit, s.calls = .op (.fullAdder a b c) :: rest → ∃ x y, OnlyReturns s rest (.bits x y) ∧
      bitVal a + bitVal b + bitVal c = bitVal x + 2 * bitVal y) ∧
    (∀ a b c : Bit, s.calls = .op (.oneBitSubtractor a b c) :: rest → ∃ x y, OnlyReturns s rest (.bits x y) ∧
      bitVal a + (1 - bitVal b) + bitVal c = bitVal x + 2 * bitVal y) ∧
    (∀ a b sel : Bit, s.calls = .op (.multiplexer a b sel) :: rest → OnlyReturns s rest (.bit (if sel then b else a)))

/-! ## ALU (45_alu.md) -/

/-- 45_alu.md section 1, add: ALU opcode 0 completes with the adder's outputs, the result zero-extended (the spec's decision D19, log 27), and "This
is the only path that writes `overflow`": that every other instruction keeps it rests on the spec's decision D20 (log 14). -/
def Obligations.AluAddOutcome : Prop :=
  (∀ (a b : Byte) (s : State), ∃ t, exec (.aluAdd a b) s = .next t ∧ t.alu.result = zext16 (rca8 a b).sum ∧
      t.alu.result.toNat = (a.toNat + b.toNat) % 256 ∧
      t.alu.flags = { carry := (rca8 a b).carryOut, zero := decide ((rca8 a b).sum = 0), overflow := (rca8 a b).overflow,
                      sign := (rca8 a b).sum.getLsbD 7 } ∧
      t.response = .alu t.alu.result t.alu.flags) ∧
    (∀ (i : Instr) (s t : State), (∀ d x y, i ≠ .add d x y) → (∀ x y, i ≠ .aluAdd x y) → exec i s = .next t →
      t.alu.flags.overflow = s.alu.flags.overflow)

/-- 45_alu.md section 1, subtract: the difference, the carry 1 iff `a >= b` (the spec's decision D9, log 10), overflow kept (D20, log 14). -/
def Obligations.AluSubOutcome : Prop :=
  ∀ (a b : Byte) (s : State), ∃ t, exec (.aluSub a b) s = .next t ∧
    (t.alu.result.toNat : Int) = ((a.toNat : Int) - b.toNat) % 256 ∧
    t.alu.flags = { carry := decide (b.toNat ≤ a.toNat), zero := decide (a = b), overflow := s.alu.flags.overflow,
                    sign := t.alu.result.getLsbD 7 } ∧
    t.response = .alu t.alu.result t.alu.flags

/-- 45_alu.md section 1, multiply: the whole truncating product (D10, log 11), carry 0 (D21, log 15), overflow kept (D20, log 14). -/
def Obligations.AluMulOutcome : Prop :=
  ∀ (a b : Byte) (s : State), ∃ t, exec (.aluMul a b) s = .next t ∧
    t.alu.result.toNat = ((List.range 8).map fun i => if b.getLsbD i then a.toNat * 2 ^ i % 256 else 0).sum ∧
    t.alu.flags = { carry := false, zero := decide (a.toNat * b.toNat % 256 = 0), overflow := s.alu.flags.overflow,
                    sign := t.alu.result.getLsbD 7 } ∧
    t.response = .alu t.alu.result t.alu.flags

/-- 45_alu.md section 1, divide: the quotient in bits 7:0 and the remainder in bits 15:8 (the order is the spec's decision D38, log 27), the
carry 1 iff the divisor is 0, then with quotient 0 and remainder `a`; overflow kept (D20, log 14). -/
def Obligations.AluDivOutcome : Prop :=
  ∀ (a b : Byte) (s : State), ∃ t, exec (.aluDiv a b) s = .next t ∧
    t.alu.result.toNat = (if b = 0 then 256 * a.toNat else a.toNat / b.toNat + 256 * (a.toNat % b.toNat)) ∧
    t.alu.flags = { carry := decide (b = 0), zero := decide (b = 0 ∨ a.toNat < b.toNat), overflow := s.alu.flags.overflow,
                    sign := t.alu.result.getLsbD 7 } ∧
    t.response = .alu t.alu.result t.alu.flags

/-- 45_alu.md section 3, float-add: it completes for every operand pair with some byte `f`, zero-extended, whose zero test and bit 7 are the
flags, carry 0 (D21, log 15), overflow kept (D20, log 14), the FPU's status being that byte's exponent; for two finite operands `f`
encodes their exact sum, and wherever the sum is determined, infinities included (D17, log 21), `f` encodes it. For the indeterminate forms `f` is a
free value, and the statement holds whatever it is (log 7). -/
def Obligations.AluFaddOutcome : Prop :=
  ∀ (a b : Byte) (s : State), ∃ t f, exec (.aluFadd a b) s = .next t ∧ t.alu.result = zext16 f ∧
    t.alu.flags = { carry := false, zero := decide (f = 0), overflow := s.alu.flags.overflow, sign := f.getLsbD 7 } ∧
    t.fpu = { isZero := decide (f.toNat / 16 % 8 = 0), isInfinity := decide (f.toNat / 16 % 8 = 7) } ∧
    t.response = .alu t.alu.result t.alu.flags ∧
    (∀ x y : Rat, (fpuParse Config.params a).value = .finite x → (fpuParse Config.params b).value = .finite y →
      f = (fpuCreate Config.params s.draws (.finite (x + y))).bits) ∧
    ∀ v : Qx, qxAdd (fpuParse Config.params a).value (fpuParse Config.params b).value = some v →
      f = (fpuCreate Config.params s.draws v).bits

/-- 45_alu.md section 3, float-multiply: as for float-add with the product (D17, D20, D21, logs 7, 14, 15, 21). -/
def Obligations.AluFmulOutcome : Prop :=
  ∀ (a b : Byte) (s : State), ∃ t f, exec (.aluFmul a b) s = .next t ∧ t.alu.result = zext16 f ∧
    t.alu.flags = { carry := false, zero := decide (f = 0), overflow := s.alu.flags.overflow, sign := f.getLsbD 7 } ∧
    t.fpu = { isZero := decide (f.toNat / 16 % 8 = 0), isInfinity := decide (f.toNat / 16 % 8 = 7) } ∧
    t.response = .alu t.alu.result t.alu.flags ∧
    (∀ x y : Rat, (fpuParse Config.params a).value = .finite x → (fpuParse Config.params b).value = .finite y →
      f = (fpuCreate Config.params s.draws (.finite (x * y))).bits) ∧
    ∀ v : Qx, qxMul (fpuParse Config.params a).value (fpuParse Config.params b).value = some v →
      f = (fpuCreate Config.params s.draws v).bits

/-- 45_alu.md section 1, opcodes 6 and 7: the result is kept, zero and sign are recomputed from it, carry and overflow are kept (D22, log
16); the operands do not matter, the two opcodes do the same, and where zero and sign already agree with the result the ALU's state does not
change at all. -/
def Obligations.AluUnmappedOutcome : Prop :=
  ∀ (a b c d : Byte) (s : State), ∃ t, exec (.aluNop6 a b) s = .next t ∧ exec (.aluNop7 c d) s = .next t ∧
    t.alu.result = s.alu.result ∧
    t.alu.flags = { s.alu.flags with zero := decide (s.alu.result.toNat % 256 = 0), sign := s.alu.result.getLsbD 7 } ∧
    t.response = .alu t.alu.result t.alu.flags ∧
    (s.alu.flags.zero = decide (s.alu.result.toNat % 256 = 0) → s.alu.flags.sign = s.alu.result.getLsbD 7 → t.alu = s.alu)

/-- The frame of ALU_ADD, ALU_SUB, ALU_MUL, ALU_DIV, ALU_FADD, ALU_FMUL, ALU_NOP6 and ALU_NOP7, called directly: no register, no byte of
memory, no bus, no counter, no latch and no gate the host holds changes; the FPU's status changes only in the two float operations,
and the gate outputs blocks own only in the first three (47_control_cpu.md section 6; which paths evaluate gates of their own is log 8, that the
gates the host holds are none of them is the model's choice, log 33). -/
def Obligations.AluOperationFrame : Prop :=
  ∀ (i : Instr) (s t : State), i.format = .alu3 → exec i s = .next t →
    SameRegisters s t ∧ SameMemory s t ∧ t.cu = s.cu ∧ t.cycles = s.cycles ∧ t.dbus = s.dbus ∧ t.abus = s.abus ∧
      SameLatches s t ∧ SameGateOutputs s t ∧ t.calls = s.calls ∧
      ((∀ a b, i ≠ .aluFadd a b) → (∀ a b, i ≠ .aluFmul a b) → t.fpu = s.fpu) ∧
      ((∀ a b, i ≠ .aluAdd a b) → (∀ a b, i ≠ .aluSub a b) → (∀ a b, i ≠ .aluMul a b) → SameOwnedOutputs s t)

/-- 45_alu.md section 2: after every call of the ALU, by an instruction or directly, `zero` is 1 iff all of the low 8 result bits are 0 and
`sign` is bit 7 of the result. That MOV calls the ALU is the spec's decision D25 (log 17), that opcodes 6 and 7 recompute the two flags its
decision D22 (log 16). -/
def Obligations.ZeroAndSignEveryCall : Prop :=
  ∀ (i : Instr) (s : State), ∃ t, exec i s = .next t ∧
    (t.alu.flags.zero = true ↔ ∀ k, k < 8 → t.alu.result.getLsbD k = false) ∧
    t.alu.flags.sign = t.alu.result.getLsbD 7

/-! ## The four instructions (47_control_cpu.md) -/

/-- ADD (47_control_cpu.md section 3): the destination takes the sum of the old sources modulo 256, and all four flags are written. -/
def Obligations.AddOutcome : Prop :=
  ∀ (d s1 s2 : Reg) (s : State), ∃ t, exec (.add d s1 s2) s = .next t ∧
    (t.reg d).toNat = ((s.reg s1).toNat + (s.reg s2).toNat) % 256 ∧ t.alu.result = zext16 (t.reg d) ∧
    t.alu.flags = { carry := decide (256 ≤ (s.reg s1).toNat + (s.reg s2).toNat), zero := decide (t.reg d = 0),
                    overflow := signedOverflow (sval (s.reg s1) + sval (s.reg s2)), sign := (t.reg d).getLsbD 7 }

/-- SUB (47_control_cpu.md section 3): the difference modulo 256; carry 1 iff no borrow (the spec's decision D9, log 10); overflow kept
(D20, log 14). -/
def Obligations.SubOutcome : Prop :=
  ∀ (d s1 s2 : Reg) (s : State), ∃ t, exec (.sub d s1 s2) s = .next t ∧
    ((t.reg d).toNat : Int) = (((s.reg s1).toNat : Int) - (s.reg s2).toNat) % 256 ∧ t.alu.result = zext16 (t.reg d) ∧
    t.alu.flags = { carry := decide ((s.reg s2).toNat ≤ (s.reg s1).toNat), zero := decide (s.reg s1 = s.reg s2),
                    overflow := s.alu.flags.overflow, sign := (t.reg d).getLsbD 7 }

/-- MUL (47_control_cpu.md section 3): the product modulo 256; the result register holds the truncating product (D10, log 11); carry 0
(D21, log 15); overflow kept (D20, log 14). -/
def Obligations.MulOutcome : Prop :=
  ∀ (d s1 s2 : Reg) (s : State), ∃ t, exec (.mul d s1 s2) s = .next t ∧
    (t.reg d).toNat = (s.reg s1).toNat * (s.reg s2).toNat % 256 ∧
    t.alu.result.toNat =
      ((List.range 8).map fun i => if (s.reg s2).getLsbD i then (s.reg s1).toNat * 2 ^ i % 256 else 0).sum ∧
    t.alu.flags = { carry := false, zero := decide (t.reg d = 0), overflow := s.alu.flags.overflow,
                    sign := (t.reg d).getLsbD 7 }

/-- MOV (47_control_cpu.md section 3): the instruction named MOV writes the quotient, 0 for a zero divisor, which carry signals; the remainder
stays in the result's high byte. That opcode 3 divides is the spec's decision D25 (log 17); overflow kept (D20, log 14). -/
def Obligations.MovOutcome : Prop :=
  ∀ (d s1 s2 : Reg) (s : State), ∃ t, exec (.mov d s1 s2) s = .next t ∧
    (t.reg d).toNat = (s.reg s1).toNat / (s.reg s2).toNat ∧
    (lowByte t.alu.result) = t.reg d ∧ (highByte t.alu.result).toNat = (s.reg s1).toNat % (s.reg s2).toNat ∧
    t.alu.flags = { carry := decide (s.reg s2 = 0), zero := decide (t.reg d = 0), overflow := s.alu.flags.overflow,
                    sign := (t.reg d).getLsbD 7 }

/-- What every instruction of format I8 does beside its result (47_control_cpu.md section 3): the control unit holds the byte and its fields,
the data bus the transfer of the low byte from the ALU to the destination (for MOV too, which calls the ALU by the spec's decision D25, log 17), `cycles` and the program counter advance by one, and the
record of all this is returned. The bus labels and the record are the spec's decisions D29 and D30 (logs 19, 20). -/
def Obligations.InstructionBookkeeping : Prop :=
  ∀ (i : Instr) (s : State), i.format = .i8 → i.wellFormed = true → ∃ t d, exec i s = .next t ∧
    encode i = [t.cu.ir] ∧ decodeByte t.cu.ir = i ∧ t.cu.consistent = true ∧ d.val = t.cu.dst.toNat ∧
    t.reg d = lowByte t.alu.result ∧
    t.dbus = { value := (lowByte t.alu.result).toNat, source := .alu, destination := .reg d } ∧
    t.cycles = s.cycles + 1 ∧ t.cu.pc.toNat = (s.cu.pc.toNat + 1) % 256 ∧
    t.response = .executed
      { result16 := t.alu.result, resultLow := lowByte t.alu.result, flags := t.alu.flags, opcode := t.cu.opcode,
        dst := t.cu.dst, src1 := t.cu.src1, src2 := t.cu.src2, opName := t.cu.opName, cycles := t.cycles, pc := t.cu.pc }

/-- The frame of ADD, SUB, MUL and MOV (47_control_cpu.md section 3): every register but the destination is unchanged, so R4 to R7 always are;
every byte of memory, the address bus, every latch, the FPU's status and every gate the host holds are unchanged; SUB, MUL and MOV keep
`overflow` (D20, log 14). That the gates the host holds are none of the blocks' is the model's choice (log 33); so is the last clause, that
MOV keeps every gate output that blocks own: it rests on MOV dividing (the spec's decision D25, log 17) and on the divide path evaluating no
gate (DEDUCED, log 8). -/
def Obligations.InstructionFrame : Prop :=
  ∀ (d s1 s2 : Reg) (s t : State) (i : Instr),
    (i = .add d s1 s2 ∨ i = .sub d s1 s2 ∨ i = .mul d s1 s2 ∨ i = .mov d s1 s2) → exec i s = .next t →
      SameRegistersExcept d s t ∧ (i.wellFormed = true → ∀ r : Reg, 4 ≤ r.val → t.reg r = s.reg r) ∧
        SameMemory s t ∧ t.abus = s.abus ∧ SameLatches s t ∧ t.fpu = s.fpu ∧ SameGateOutputs s t ∧ t.calls = s.calls ∧
        (i ≠ .add d s1 s2 → t.alu.flags.overflow = s.alu.flags.overflow) ∧
        (i = .mov d s1 s2 → SameOwnedOutputs s t)

/-! ## The float8 unit (44_fpu.md) -/

/-- 44_fpu.md section 2: the value and the status of each byte under the layout the spec takes (D13, D14, logs 12, 21): exponent 0 is zero, 7 an
infinity with the sign bit, and otherwise the value is `(-1)^sign * (1 + M/16) * 2^(E-3)`. -/
def Obligations.ParseMeaning : Prop :=
  ∀ b : Byte,
    (fpuParse Config.params b).isZero = decide (b.toNat / 16 % 8 = 0) ∧
      (fpuParse Config.params b).isInfinity = decide (b.toNat / 16 % 8 = 7) ∧
      (b.toNat / 16 % 8 = 0 → (fpuParse Config.params b).value = .finite 0) ∧
      (b.toNat / 16 % 8 = 7 → (fpuParse Config.params b).value = .infinite (decide (128 ≤ b.toNat))) ∧
      (1 ≤ b.toNat / 16 % 8 → b.toNat / 16 % 8 ≤ 6 →
        (fpuParse Config.params b).value =
          .finite ((-1) ^ (b.toNat / 128) * (1 + ((b.toNat % 16 : Nat) : Rat) / 16) *
            (2 : Rat) ^ (((b.toNat / 16 % 8 : Nat) : Int) - 3)))

/-- 44_fpu.md section 3: `flog2` is the unique integer with `2^L <= x < 2^(L+1)` (exact by the spec's decision D15, log 21). -/
def Obligations.FloorLogIsUnique : Prop :=
  ∀ x : Rat, 0 < x →
    ((2 : Rat) ^ flog2 x ≤ x ∧ x < (2 : Rat) ^ (flog2 x + 1)) ∧
      ∀ l : Int, (2 : Rat) ^ l ≤ x → x < (2 : Rat) ^ (l + 1) → l = flog2 x

/-- 44_fpu.md section 3: greedy extraction truncates the fraction to four bits (the comparison is the spec's decision D15, log 21). -/
def Obligations.GreedyTruncates : Prop :=
  ∀ f : Rat, 0 ≤ f → f < 1 → (greedy4 f : Int) = ⌊16 * f⌋ ∧ greedy4 f < 16

/-- 44_fpu.md section 3: the byte, the status and the thresholds of the encoder: 0 and magnitudes below 1/4 give exponent 0, magnitudes from 16
on and the infinities give exponent 7, both with mantissa 0, the sign being that of the value; any other value is neither, with exponent `flog2 + 3` and the truncated fraction (D13, D15, D16,
D17, logs 12, 13, 21). No free value is drawn. -/
def Obligations.EncoderByRange : Prop :=
  ∀ k : Nat,
    fpuCreate Config.params k (.finite 0) = { bits := 0x00, isZero := true, isInfinity := false, draws := k } ∧
      (∀ n : Bit, fpuCreate Config.params k (.infinite n) =
        { bits := if n then 0xF0 else 0x70, isZero := false, isInfinity := true, draws := k }) ∧
      (∀ q : Rat, q ≠ 0 → |q| < 1 / 4 → fpuCreate Config.params k (.finite q) =
        { bits := if q < 0 then 0x80 else 0x00, isZero := true, isInfinity := false, draws := k }) ∧
      (∀ q : Rat, 16 ≤ |q| → fpuCreate Config.params k (.finite q) =
        { bits := if q < 0 then 0xF0 else 0x70, isZero := false, isInfinity := true, draws := k }) ∧
      (∀ q : Rat, 1 / 4 ≤ |q| → |q| < 16 →
        (fpuCreate Config.params k (.finite q)).isZero = false ∧ (fpuCreate Config.params k (.finite q)).isInfinity = false ∧
          (fpuCreate Config.params k (.finite q)).draws = k ∧
          ((fpuCreate Config.params k (.finite q)).bits.toNat : Int) =
            (if q < 0 then 128 else 0) + 16 * (flog2 |q| + 3) + ⌊16 * (|q| / (2 : Rat) ^ flog2 |q| - 1)⌋)

/-- 44_fpu.md section 3, the round trip the spec derives: the 192 finite non-zero encodings are fixed points, the zeros become 0x00 and the
infinities 0x70 or 0xF0 by sign (D13, D16, D17, logs 12, 13, 21). -/
def Obligations.ByteRoundTrip : Prop :=
  ∀ (b : Byte) (k : Nat),
    (fpuCreate Config.params k (fpuParse Config.params b).value).bits =
      if b.toNat / 16 % 8 = 0 then 0x00
      else if b.toNat / 16 % 8 = 7 then (if 128 ≤ b.toNat then 0xF0 else 0x70)
      else b

/-- 44_fpu.md section 3, derived there: a finite value with magnitude from 1/4 to below 16 is encoded as the representable value nearest to it
toward zero: of its sign, not larger in magnitude, and not smaller in magnitude than any other representable value of its sign that is
not larger than it (D13, D15, logs 12, 21). -/
def Obligations.EncoderRoundsTowardZero : Prop :=
  ∀ (q : Rat) (k : Nat), 1 / 4 ≤ |q| → |q| < 16 →
    ∃ v : Rat, (fpuParse Config.params (fpuCreate Config.params k (.finite q)).bits).value = .finite v ∧
      |v| ≤ |q| ∧ (0 < v ↔ 0 < q) ∧ v ≠ 0 ∧
      ∀ (b : Byte) (w : Rat), (fpuParse Config.params b).value = .finite w → (0 < w ↔ 0 < q) → |w| ≤ |q| → |w| ≤ |v|

/-- 44_fpu.md section 4: the sum and the product handed to the encoder where an operand is an infinity (the spec's decision D17, log 21), and
exactly which operand bytes are indeterminate. -/
def Obligations.InfinityArithmetic : Prop :=
  (∀ (x : Rat) (m n : Bit), qxAdd (.infinite m) (.finite x) = some (.infinite m) ∧
      qxAdd (.finite x) (.infinite m) = some (.infinite m) ∧ qxAdd (.infinite m) (.infinite m) = some (.infinite m) ∧
      (x ≠ 0 → qxMul (.infinite m) (.finite x) = some (.infinite (m ^^ decide (x < 0))) ∧
        qxMul (.finite x) (.infinite m) = some (.infinite (m ^^ decide (x < 0)))) ∧
      qxMul (.infinite m) (.infinite n) = some (.infinite (m ^^ n))) ∧
    (∀ a b : Byte, qxAdd (fpuParse Config.params a).value (fpuParse Config.params b).value = none ↔
      a.toNat / 16 % 8 = 7 ∧ b.toNat / 16 % 8 = 7 ∧ a.toNat / 128 ≠ b.toNat / 128) ∧
    (∀ a b : Byte, qxMul (fpuParse Config.params a).value (fpuParse Config.params b).value = none ↔
      (a.toNat / 16 % 8 = 7 ∧ b.toNat / 16 % 8 = 0) ∨ (a.toNat / 16 % 8 = 0 ∧ b.toNat / 16 % 8 = 7))

/-- 44_fpu.md sections 2 to 4, called directly: each of the four operations completes, returns its outputs, keeps the status Bits of the value it
handled (for add and multiply those of the byte it returns, log 7) and changes nothing else but the number of the next free value; the byte that add
and multiply return encodes the sum or the product wherever that is determined, infinities included (D17, log 21). -/
def Obligations.FpuCallsKeepStatus : Prop :=
  ∀ (s : State) (rest : List HostCall),
    (∀ b : Byte, s.calls = .op (.fpuParse b) :: rest → step s = .next
      { s with calls := rest, fpu := { isZero := (fpuParse Config.params b).isZero, isInfinity := (fpuParse Config.params b).isInfinity },
               response := .parsed (fpuParse Config.params b).value (fpuParse Config.params b).isZero
                 (fpuParse Config.params b).isInfinity }) ∧
    (∀ v : Qx, s.calls = .op (.fpuCreate v) :: rest → ∃ f k, step s = .next
      { s with calls := rest, draws := k,
               fpu := { isZero := decide (f.toNat / 16 % 8 = 0), isInfinity := decide (f.toNat / 16 % 8 = 7) },
               response := .encoded f (decide (f.toNat / 16 % 8 = 0)) (decide (f.toNat / 16 % 8 = 7)) } ∧
      f = (fpuCreate Config.params s.draws v).bits) ∧
    (∀ a b : Byte, s.calls = .op (.fpuAdd a b) :: rest → ∃ f k, step s = .next
      { s with calls := rest, draws := k,
               fpu := { isZero := decide (f.toNat / 16 % 8 = 0), isInfinity := decide (f.toNat / 16 % 8 = 7) },
               response := .byte f } ∧ f = (fpuAdd Config.params s.draws a b).bits ∧
      ∀ v, qxAdd (fpuParse Config.params a).value (fpuParse Config.params b).value = some v →
        f = (fpuCreate Config.params s.draws v).bits) ∧
    (∀ a b : Byte, s.calls = .op (.fpuMultiply a b) :: rest → ∃ f k, step s = .next
      { s with calls := rest, draws := k,
               fpu := { isZero := decide (f.toNat / 16 % 8 = 0), isInfinity := decide (f.toNat / 16 % 8 = 7) },
               response := .byte f } ∧ f = (fpuMultiply Config.params s.draws a b).bits ∧
      ∀ v, qxMul (fpuParse Config.params a).value (fpuParse Config.params b).value = some v →
        f = (fpuCreate Config.params s.draws v).bits)

/-! ## Storage and buses (20_memory.md, 46_regfile_memory_buses.md, 47_control_cpu.md section 4) -/

/-- R145: `RegisterFile.read` of every integer index; it changes nothing but the value returned. -/
def Obligations.RegisterReadAnyIndex : Prop :=
  ∀ (s : State) (i : Int) (rest : List HostCall), s.calls = .op (.registerRead i) :: rest →
    ∃ v, step s = .next { s with calls := rest, response := .byte v } ∧
      (∀ r : Reg, i = (r.val : Int) → v = s.reg r) ∧ (i < 0 ∨ 7 < i → v = 0)

/-- 46_regfile_memory_buses.md section 1: `RegisterFile.write` of every integer value to every integer index; it changes nothing but that
register and the indicator returned, whose form is the spec's decision D42 (log 20). -/
def Obligations.RegisterWriteAnyIndex : Prop :=
  ∀ (s : State) (i v : Int) (rest : List HostCall), s.calls = .op (.registerWrite i v) :: rest →
    ∃ x, step s = .next { s with calls := rest, x := x, response := .ok (decide (0 ≤ i ∧ i ≤ 7)) } ∧
      (∀ r : Reg, i = (r.val : Int) → (x[r.val].toNat : Int) = v % 256) ∧
      (∀ r : Reg, i ≠ (r.val : Int) → x[r.val] = s.reg r)

/-- R32: `Memory.read` of every integer address; it changes nothing but the value returned. -/
def Obligations.MemoryReadDirect : Prop :=
  ∀ (s : State) (a : Int) (rest : List HostCall), s.calls = .op (.memoryRead a) :: rest →
    ∃ v, step s = .next { s with calls := rest, response := .byte v } ∧
      (0 ≤ a → a ≤ 255 → v = Memory.read s.mem a.toNat) ∧ (a < 0 ∨ 255 < a → v = 0)

/-- 20_memory.md section 2: `Memory.write` of every integer value to every integer address: the byte at an address of 0 to 255 takes the
value modulo 256 (the spec's decision D2, log 26) and reads so afterwards, every other byte reads as before, and nothing else changes but
the indicator returned (D42, log 20). -/
def Obligations.MemoryWriteDirect : Prop :=
  ∀ (s : State) (a v : Int) (rest : List HostCall), s.inv = true → s.calls = .op (.memoryWrite a v) :: rest →
    ∃ m, step s = .next { s with calls := rest, mem := m, response := .ok (decide (0 ≤ a ∧ a ≤ 255)) } ∧
      (0 ≤ a → a ≤ 255 → ((Memory.read m a.toNat).toNat : Int) = v % 256) ∧
      (∀ n : Nat, (n : Int) ≠ a → Memory.read m n = Memory.read s.mem n) ∧ (a < 0 ∨ 255 < a → m = s.mem)

/-- 47_control_cpu.md section 4 and 46_regfile_memory_buses.md section 3: `load_memory` writes as `Memory.write` does and records its
arguments as given on both buses, also where the write is refused; `read_memory` returns the byte, 0 outside 0..255, and records the
address and the byte; the buses' own operations record their arguments as given. The labels and return values are the spec's decisions D28,
D29, D31 (logs 19, 20). -/
def Obligations.MemoryCallsRecordOnBuses : Prop :=
  ∀ (s : State) (rest : List HostCall),
    (∀ a v : Int, s.inv = true → s.calls = .op (.loadMemory a v) :: rest →
      ∃ m, step s = .next { s with calls := rest, mem := m, abus := { address := a, source := .host },
                                   dbus := { value := v, source := .host, destination := .mem },
                                   response := .ok (decide (0 ≤ a ∧ a ≤ 255)) } ∧
        (0 ≤ a → a ≤ 255 → ((Memory.read m a.toNat).toNat : Int) = v % 256) ∧
        (∀ n : Nat, (n : Int) ≠ a → Memory.read m n = Memory.read s.mem n) ∧ (a < 0 ∨ 255 < a → m = s.mem)) ∧
    (∀ a : Int, s.calls = .op (.readMemory a) :: rest →
      ∃ v : Byte, step s = .next { s with calls := rest, abus := { address := a, source := .host },
                                          dbus := { value := v.toNat, source := .mem, destination := .host },
                                          response := .byte v } ∧
        (0 ≤ a → a ≤ 255 → v = Memory.read s.mem a.toNat) ∧ (a < 0 ∨ 255 < a → v = 0)) ∧
    (∀ (v : Int) (src dst : Label), s.calls = .op (.dataBusTransfer v src dst) :: rest →
      step s = .next { s with calls := rest, dbus := { value := v, source := src, destination := dst }, response := .none }) ∧
    (∀ (a : Int) (src : Label), s.calls = .op (.addressBusSet a src) :: rest →
      step s = .next { s with calls := rest, abus := { address := a, source := src }, response := .none })

/-- 20_memory.md section 2 and 47_control_cpu.md section 6: a range read wraps modulo 256, and the snapshot returns every listed piece of state
with such a window; both change nothing but the value returned (the form of the operations is the spec's, D35, D36, log 29). -/
def Obligations.RangeReadAndSnapshot : Prop :=
  ∀ (s : State) (start : Int) (length : Nat) (rest : List HostCall),
    ∃ w : List Byte, w.length = length ∧
      (∀ k, k < length → w[k]? = some (Memory.read s.mem ((start + k) % 256).toNat)) ∧
      (s.calls = .op (.memoryReadRange start length) :: rest → step s = .next { s with calls := rest, response := .bytes w }) ∧
      (s.calls = .op (.snapshot start length) :: rest → step s = .next
        (({ s with calls := rest }).respond (.snapshot
          { pc := s.cu.pc, ir := s.cu.ir, registers := s.x, aluResult := s.alu.result, flags := s.alu.flags, cycles := s.cycles,
            dataBus := s.dbus, addressBus := s.abus, memoryWindow := w })))

/-- 20_memory.md section 1 and 10_state.md section 4: memory changes only by `Memory.write`, `load_memory` and `reset`, so by no
instruction, and R4 to R7 only by `RegisterFile.write` and `reset`. -/
def Obligations.OnlyHostWritesMemoryAndUpperRegisters : Prop :=
  ∀ (s t : State) (c : HostCall) (rest : List HostCall), s.calls = c :: rest → step s = .next t →
    (c.writesMemory = false → SameMemory s t) ∧
      (c.writesUpperRegisters = false → ∀ r : Reg, 4 ≤ r.val → t.reg r = s.reg r)

/-- 46_regfile_memory_buses.md section 3: no operation reads the bus records except the snapshot: with other records every step does the same to everything else, leaves in
each record either the same in both runs or what that run started with (so no record is read to write the other), and returns
the same value unless it is the snapshot; and a transfer is never refused, delayed or retried, its value
and labels being recorded as given (the spec's decision D28, log 19). -/
def Obligations.BusesDecideNothing : Prop :=
  ∀ (s : State) (d : DataBus) (a : AddressBus), ∃ t t', step s = .next t ∧ step (s.withBuses d a) = .next t' ∧
    (t'.withBuses t.dbus t.abus).withResponse t.response = t ∧
    (t'.dbus = t.dbus ∨ (t.dbus = s.dbus ∧ t'.dbus = d)) ∧ (t'.abus = t.abus ∨ (t.abus = s.abus ∧ t'.abus = a)) ∧
    ((∀ c, s.calls.head? = some c → c.isSnapshot = false) → t'.withBuses t.dbus t.abus = t) ∧
    (∀ v src dst rest, s.calls = .op (.dataBusTransfer v src dst) :: rest →
      t.dbus = { value := v, source := src, destination := dst })

/-- 10_state.md section 3: no instruction reads a flag: with other flags before it, an instruction or a direct ALU call leaves everything the
same but the flags and the value returned. -/
def Obligations.FlagsDecideNothing : Prop :=
  ∀ (i : Instr) (s : State) (f : Flags), ∃ t t', exec i s = .next t ∧ exec i (s.withFlags f) = .next t' ∧
    (t'.withFlags t.alu.flags).withResponse t.response = t

/-! ## Control unit and counters (47_control_cpu.md section 1, 60_exceptions.md section 5) -/

/-- 47_control_cpu.md section 1: `decode` writes the instruction register, the four fields and the name, returns them, and changes nothing
else, the program counter neither (the spec's decision D26, log 23). -/
def Obligations.DecodeCallLoadsFields : Prop :=
  ∀ (s : State) (b : Byte) (rest : List HostCall), s.calls = .op (.controlDecode b) :: rest →
    ∃ c : ControlUnit, step s = .next { s with calls := rest, cu := c,
                                               response := .decoded c.opcode c.dst c.src1 c.src2 c.opName } ∧
      c.pc = s.cu.pc ∧ c.ir = b ∧ c.opcode.toNat = b.toNat / 64 % 4 ∧ c.dst.toNat = b.toNat / 16 % 4 ∧
      c.src1.toNat = b.toNat / 4 % 4 ∧ c.src2.toNat = b.toNat % 4 ∧
      (c.opName = .add ↔ c.opcode = 0) ∧ (c.opName = .sub ↔ c.opcode = 1) ∧ (c.opName = .mul ↔ c.opcode = 2) ∧
      (c.opName = .mov ↔ c.opcode = 3)

/-- 47_control_cpu.md section 1: `increment_pc` advances the program counter modulo 256 and changes nothing else; that it returns the new
value is the spec's own choice ("the source names no return value", log 20). -/
def Obligations.IncrementPcCall : Prop :=
  ∀ (s : State) (rest : List HostCall), s.calls = .op .incrementPc :: rest →
    ∃ p : Byte, step s = .next { s with calls := rest, cu := { s.cu with pc := p }, response := .byte p } ∧
      p.toNat = (s.cu.pc.toNat + 1) % 256

/-- 47_control_cpu.md section 1, the law the spec derives: after `n` calls of `increment_pc` the program counter is `(p + n) mod 256`, so after
256 calls it is back. -/
def Obligations.IncrementPcManyTimes : Prop :=
  ∀ (n : Nat) (s : State) (rest : List HostCall), s.calls = List.replicate n (.op .incrementPc) ++ rest →
    ∃ t, Host.Core.run Sys2Proof.core n s = .next t ∧ t.calls = rest ∧ t.cu.pc.toNat = (s.cu.pc.toNat + n) % 256 ∧
      t.cycles = s.cycles ∧ t.x = s.x ∧ t.mem = s.mem ∧ t.alu = s.alu

/-- 60_exceptions.md section 5: `cycles` advances by exactly 1 by every `execute_instruction` and by nothing else, and `reset` returns it to
0; and `cycles mod 256 = cu.pc` is kept by every call but a direct `increment_pc`. -/
def Obligations.CycleCounterLaw : Prop :=
  ∀ (s t : State) (c : HostCall) (rest : List HostCall), s.calls = c :: rest → step s = .next t →
    (c.isInstruction = true → t.cycles = s.cycles + 1) ∧ (c = .op .resetCall → t.cycles = 0) ∧
      (c.isInstruction = false → c ≠ .op .resetCall → t.cycles = s.cycles) ∧
      (c ≠ .op .incrementPc → s.pcTracksCycles = true → t.pcTracksCycles = true)

/-! ## Construction and reset (70_reset_and_hazards.md) -/

/-- 70_reset_and_hazards.md section 1: the state at construction; the name ADD and the labels NONE in it are the spec's decisions D26 and
D28 (logs 19, 23). -/
def Obligations.ConstructionValues : Prop :=
  (∀ r : Reg, State.reset.reg r = 0) ∧ (∀ a : Int, State.reset.memoryRead a = 0) ∧ State.reset.alu.result = 0 ∧
    State.reset.alu.flags = { carry := false, zero := false, overflow := false, sign := false } ∧
    State.reset.cu = { pc := 0, ir := 0, opcode := 0, dst := 0, src1 := 0, src2 := 0, opName := .add } ∧
    State.reset.cycles = 0 ∧ State.reset.dbus = { value := 0, source := .none, destination := .none } ∧
    State.reset.abus = { address := 0, source := .none } ∧ State.reset.fpu = { isZero := false, isInfinity := false } ∧
    (∀ n, State.reset.srLatch n = { q := false, qbar := true } ∧ State.reset.dLatch n = { q := false, qbar := true }) ∧
    (∀ k n, State.reset.lastOut k n = false) ∧ (∀ g, State.reset.ownedLastOut g = false)

/-- 70_reset_and_hazards.md section 2: what `reset()` zeroes, in any state (the name ADD is the spec's decision D26, log 23); it records
nothing on the buses, and a second one straight after changes nothing. -/
def Obligations.ResetZeroesListedState : Prop :=
  ∀ (s : State) (rest : List HostCall), s.calls = .op .resetCall :: rest →
    ∃ t, step s = .next t ∧ (∀ r : Reg, t.reg r = 0) ∧ (∀ a : Int, t.memoryRead a = 0) ∧
      t.cu = { pc := 0, ir := 0, opcode := 0, dst := 0, src1 := 0, src2 := 0, opName := .add } ∧ t.cycles = 0 ∧
      t.dbus = s.dbus ∧ t.abus = s.abus ∧ t.calls = rest ∧ t.response = .none ∧ t.resetCall Config.params = t

/-- 70_reset_and_hazards.md section 2: what `reset()` leaves: the ALU's result and flags, both bus records, the FPU's status, every latch and
every gate output (the scope is the spec's decision D33, log 18). -/
def Obligations.ResetLeavesTheRest : Prop :=
  ∀ (s : State) (rest : List HostCall), s.calls = .op .resetCall :: rest →
    ∃ t, step s = .next t ∧ t.alu = s.alu ∧ t.dbus = s.dbus ∧ t.abus = s.abus ∧ t.fpu = s.fpu ∧ SameLatches s t ∧
      SameGateOutputs s t ∧ SameOwnedOutputs s t

/-! ## The whole machine -/

/-- R190: nothing raises: every step of every state answers a next state, and so does every instruction. -/
def Obligations.NothingRaises : Prop :=
  (∀ s : State, Completes (step s)) ∧ (∀ (i : Instr) (s : State), Completes (exec i s))

/-- The invariant of the machine holds at construction. -/
def Obligations.ConstructionHasInvariant : Prop := State.reset.inv = true ∧ State.reset.pcTracksCycles = true

/-- Every step keeps the invariant: memory, latches and gate outputs stay in canonical form with every address below 256, every latch
stays complementary (41_composite_logic.md section 4), the control unit's fields stay those of its instruction register (47_control_cpu.md
section 1), and zero and sign are never both set (45_alu.md section 4). -/
def Obligations.StepKeepsInvariant : Prop :=
  ∀ s t : State, s.inv = true → step s = .next t → t.inv = true
end

