-- ==== Sys2Proof/Laws/Arith.lean ====
section
/-! SUPPORT. What the shared bit-level operations compute: lists of Bits as numbers, the carry chain, the divider's loop. -/

namespace Sys2Proof.Machine

theorem bitsVal_lt (l : List Bit) : bitsVal l < 2 ^ l.length := by
  induction l with
  | nil => simp [bitsVal]
  | cons b rest ih => cases b <;> simp [bitsVal, bitVal, Nat.pow_succ] <;> omega

theorem bitsOf_length (v : Byte) : (bitsOf v).length = 8 := by simp [bitsOf]

theorem bitsVal_bitsOf : ∀ v : Byte, bitsVal (bitsOf v) = v.toNat := by decide +kernel

theorem byteOfBits_toNat (l : List Bit) (h : l.length = 8) : (byteOfBits l).toNat = bitsVal l := by
  have := bitsVal_lt l
  rw [h] at this
  simpa [byteOfBits] using this

/-- R73: a FullAdder adds its three Bits. -/
theorem fullAdder_val (a b c : Bit) :
    bitVal (fullAdder a b c).1 + 2 * bitVal (fullAdder a b c).2 = bitVal a + bitVal b + bitVal c := by
  cases a <;> cases b <;> cases c <;> rfl

theorem rippleCarry_length (as bs : List Bit) (c : Bit) (h : as.length = bs.length) :
    (rippleCarry as bs c).1.length = as.length := by
  induction as generalizing bs c with
  | nil => cases bs <;> simp_all [rippleCarry]
  | cons a as ih =>
    cases bs with
    | nil => simp at h
    | cons b bs =>
      have h' : as.length = bs.length := by simpa using h
      simp [rippleCarry, ih bs _ h']

/-- The carry chain adds: the sum Bits and the last carry are the exact sum of the two numbers and the first carry. -/
theorem rippleCarry_val (as bs : List Bit) (c : Bit) (h : as.length = bs.length) :
    bitsVal (rippleCarry as bs c).1 + 2 ^ as.length * bitVal (rippleCarry as bs c).2 =
      bitsVal as + bitsVal bs + bitVal c := by
  induction as generalizing bs c with
  | nil => cases bs <;> simp_all [rippleCarry, bitsVal]
  | cons a as ih =>
    cases bs with
    | nil => simp at h
    | cons b bs =>
      have hf := fullAdder_val a b c
      have hi := ih bs (fullAdder a b c).2 (by simpa using h)
      simp only [rippleCarry, bitsVal, List.length_cons, Nat.pow_succ]
      rw [Nat.mul_comm (2 ^ as.length) 2, Nat.mul_assoc]
      omega

theorem bitsVal_map_gateNot (l : List Bit) : bitsVal (l.map gateNot) + bitsVal l + 1 = 2 ^ l.length := by
  induction l with
  | nil => rfl
  | cons b rest ih => cases b <;> simp [bitsVal, bitVal, gateNot, Nat.pow_succ] <;> omega

/-- The increment chain adds its carry, dropping the last one. -/
theorem rippleIncrement_val (l : List Bit) (c : Bit) :
    (rippleIncrement l c).length = l.length ∧
      bitsVal (rippleIncrement l c) = (bitsVal l + bitVal c) % 2 ^ l.length := by
  induction l generalizing c with
  | nil => cases c <;> simp [rippleIncrement, bitsVal, bitVal]
  | cons b rest ih =>
    obtain ⟨h1, h2⟩ := ih (gateAnd b c)
    refine ⟨by simp [rippleIncrement, h1], ?_⟩
    have hlt := bitsVal_lt rest
    simp only [rippleIncrement, bitsVal, h2, List.length_cons, Nat.pow_succ, Nat.mul_comm (2 ^ rest.length) 2]
    generalize 2 ^ rest.length = n at *
    have hx : bitsVal rest + bitVal (gateAnd b c) < n ∨ bitsVal rest + bitVal (gateAnd b c) = n := by
      have : bitVal (gateAnd b c) ≤ 1 := by cases b <;> cases c <;> simp [gateAnd, bitVal]
      omega
    have hs : bitVal b + bitVal c = bitVal (gateXor b c) + 2 * bitVal (gateAnd b c) := by
      cases b <;> cases c <;> rfl
    have hq : bitVal (gateXor b c) ≤ 1 ∧ (bitVal (gateXor b c) = 1 → bitVal (gateAnd b c) = 0) := by
      cases b <;> cases c <;> simp [gateXor, gateAnd, bitVal]
    rcases hx with hx | hx
    · rw [Nat.mod_eq_of_lt hx, Nat.mod_eq_of_lt (by omega)]; omega
    · have he : bitVal b + 2 * bitsVal rest + bitVal c = 2 * n := by omega
      rw [hx, he, Nat.mod_self, Nat.mod_self]
      omega

/-- The divider's loop, with enough iterations left, divides. -/
theorem divLoop_spec (v : Nat) (hv : 0 < v) (fuel q r : Nat) (h : r / v ≤ fuel) :
    divLoop v fuel q r = (q + r / v, r % v) := by
  induction fuel generalizing q r with
  | zero =>
    have : r < v := by
      rcases Nat.lt_or_ge r v with h' | h'
      · exact h'
      · have := Nat.div_pos h' hv; omega
    simp [divLoop, Nat.div_eq_of_lt this, Nat.mod_eq_of_lt this]
  | succ n ih =>
    unfold divLoop
    split
    · rename_i hle
      have hd : r / v = (r - v) / v + 1 := Nat.div_eq_sub_div hv hle
      rw [ih (q + 1) (r - v) (by omega), hd, Nat.mod_eq_sub_mod hle]
      congr 1
      omega
    · rename_i hlt
      have : r < v := Nat.lt_of_not_le hlt
      simp [Nat.div_eq_of_lt this, Nat.mod_eq_of_lt this]

/-! ### Words of two Bytes -/

@[simp] theorem lowByte_zext16 (v : Byte) : lowByte (zext16 v) = v := by
  apply BitVec.eq_of_toNat_eq
  simp [lowByte, zext16]

@[simp] theorem highByte_zext16 : ∀ v : Byte, highByte (zext16 v) = 0 := by decide +kernel

@[simp] theorem lowByte_lowFirst (a b : Byte) : lowByte (lowFirst a b) = a := by
  show BitVec.setWidth 8 (b ++ a) = a
  exact BitVec.setWidth_append_eq_right

theorem lowFirst_toNat (a b : Byte) : (lowFirst a b).toNat = a.toNat + 256 * b.toNat := by
  show (b ++ a).toNat = _
  rw [BitVec.toNat_append, ← Nat.shiftLeft_add_eq_or_of_lt a.isLt, Nat.shiftLeft_eq]
  omega

@[simp] theorem highByte_lowFirst (a b : Byte) : highByte (lowFirst a b) = b := by
  apply BitVec.eq_of_toNat_eq
  have := a.isLt
  have := b.isLt
  simp only [highByte, BitVec.extractLsb'_toNat, lowFirst_toNat, Nat.shiftRight_eq_div_pow]
  omega

theorem wide_eq_lowFirst (w : Wide) : lowFirst (lowByte w) (highByte w) = w := by
  apply BitVec.eq_of_toNat_eq
  have := w.isLt
  simp only [lowFirst_toNat, highByte, lowByte, BitVec.extractLsb'_toNat, BitVec.toNat_setWidth, Nat.shiftRight_eq_div_pow]
  omega

end Sys2Proof.Machine
end

