-- ==== Sys2Proof/Laws/State.lean ====
section
/-! SUPPORT. For each update of the state, what each field holds after it: one lemma per field per update, true by definition,
so that no proof unfolds a record update. -/

namespace Sys2Proof.Machine

variable (s : State)

/-! ### State.setReg -/

@[simp] theorem State.setReg_x (r : Reg) (v : Byte) : (s.setReg r v).x = s.x.set r.val v := rfl
@[simp] theorem State.setReg_mem (r : Reg) (v : Byte) : (s.setReg r v).mem = s.mem := rfl
@[simp] theorem State.setReg_alu (r : Reg) (v : Byte) : (s.setReg r v).alu = s.alu := rfl
@[simp] theorem State.setReg_cu (r : Reg) (v : Byte) : (s.setReg r v).cu = s.cu := rfl
@[simp] theorem State.setReg_cycles (r : Reg) (v : Byte) : (s.setReg r v).cycles = s.cycles := rfl
@[simp] theorem State.setReg_dbus (r : Reg) (v : Byte) : (s.setReg r v).dbus = s.dbus := rfl
@[simp] theorem State.setReg_abus (r : Reg) (v : Byte) : (s.setReg r v).abus = s.abus := rfl
@[simp] theorem State.setReg_fpu (r : Reg) (v : Byte) : (s.setReg r v).fpu = s.fpu := rfl
@[simp] theorem State.setReg_srLatches (r : Reg) (v : Byte) : (s.setReg r v).srLatches = s.srLatches := rfl
@[simp] theorem State.setReg_dLatches (r : Reg) (v : Byte) : (s.setReg r v).dLatches = s.dLatches := rfl
@[simp] theorem State.setReg_gateOut (r : Reg) (v : Byte) : (s.setReg r v).gateOut = s.gateOut := rfl
@[simp] theorem State.setReg_ownedGates (r : Reg) (v : Byte) : (s.setReg r v).ownedGates = s.ownedGates := rfl
@[simp] theorem State.setReg_calls (r : Reg) (v : Byte) : (s.setReg r v).calls = s.calls := rfl
@[simp] theorem State.setReg_response (r : Reg) (v : Byte) : (s.setReg r v).response = s.response := rfl
@[simp] theorem State.setReg_draws (r : Reg) (v : Byte) : (s.setReg r v).draws = s.draws := rfl

/-! ### State.transfer -/

@[simp] theorem State.transfer_x (v : Int) (a b : Label) : (s.transfer v a b).x = s.x := rfl
@[simp] theorem State.transfer_mem (v : Int) (a b : Label) : (s.transfer v a b).mem = s.mem := rfl
@[simp] theorem State.transfer_alu (v : Int) (a b : Label) : (s.transfer v a b).alu = s.alu := rfl
@[simp] theorem State.transfer_cu (v : Int) (a b : Label) : (s.transfer v a b).cu = s.cu := rfl
@[simp] theorem State.transfer_cycles (v : Int) (a b : Label) : (s.transfer v a b).cycles = s.cycles := rfl
@[simp] theorem State.transfer_dbus (v : Int) (a b : Label) :
    (s.transfer v a b).dbus = { value := v, source := a, destination := b } := rfl
@[simp] theorem State.transfer_abus (v : Int) (a b : Label) : (s.transfer v a b).abus = s.abus := rfl
@[simp] theorem State.transfer_fpu (v : Int) (a b : Label) : (s.transfer v a b).fpu = s.fpu := rfl
@[simp] theorem State.transfer_srLatches (v : Int) (a b : Label) : (s.transfer v a b).srLatches = s.srLatches := rfl
@[simp] theorem State.transfer_dLatches (v : Int) (a b : Label) : (s.transfer v a b).dLatches = s.dLatches := rfl
@[simp] theorem State.transfer_gateOut (v : Int) (a b : Label) : (s.transfer v a b).gateOut = s.gateOut := rfl
@[simp] theorem State.transfer_ownedGates (v : Int) (a b : Label) : (s.transfer v a b).ownedGates = s.ownedGates := rfl
@[simp] theorem State.transfer_calls (v : Int) (a b : Label) : (s.transfer v a b).calls = s.calls := rfl
@[simp] theorem State.transfer_response (v : Int) (a b : Label) : (s.transfer v a b).response = s.response := rfl
@[simp] theorem State.transfer_draws (v : Int) (a b : Label) : (s.transfer v a b).draws = s.draws := rfl

/-! ### State.setAddress -/

@[simp] theorem State.setAddress_x (v : Int) (a : Label) : (s.setAddress v a).x = s.x := rfl
@[simp] theorem State.setAddress_mem (v : Int) (a : Label) : (s.setAddress v a).mem = s.mem := rfl
@[simp] theorem State.setAddress_alu (v : Int) (a : Label) : (s.setAddress v a).alu = s.alu := rfl
@[simp] theorem State.setAddress_cu (v : Int) (a : Label) : (s.setAddress v a).cu = s.cu := rfl
@[simp] theorem State.setAddress_cycles (v : Int) (a : Label) : (s.setAddress v a).cycles = s.cycles := rfl
@[simp] theorem State.setAddress_dbus (v : Int) (a : Label) : (s.setAddress v a).dbus = s.dbus := rfl
@[simp] theorem State.setAddress_abus (v : Int) (a : Label) : (s.setAddress v a).abus = { address := v, source := a } := rfl
@[simp] theorem State.setAddress_fpu (v : Int) (a : Label) : (s.setAddress v a).fpu = s.fpu := rfl
@[simp] theorem State.setAddress_srLatches (v : Int) (a : Label) : (s.setAddress v a).srLatches = s.srLatches := rfl
@[simp] theorem State.setAddress_dLatches (v : Int) (a : Label) : (s.setAddress v a).dLatches = s.dLatches := rfl
@[simp] theorem State.setAddress_gateOut (v : Int) (a : Label) : (s.setAddress v a).gateOut = s.gateOut := rfl
@[simp] theorem State.setAddress_ownedGates (v : Int) (a : Label) : (s.setAddress v a).ownedGates = s.ownedGates := rfl
@[simp] theorem State.setAddress_calls (v : Int) (a : Label) : (s.setAddress v a).calls = s.calls := rfl
@[simp] theorem State.setAddress_response (v : Int) (a : Label) : (s.setAddress v a).response = s.response := rfl
@[simp] theorem State.setAddress_draws (v : Int) (a : Label) : (s.setAddress v a).draws = s.draws := rfl

/-! ### State.controlDecode -/

@[simp] theorem State.controlDecode_x (b : Byte) : (s.controlDecode b).x = s.x := rfl
@[simp] theorem State.controlDecode_mem (b : Byte) : (s.controlDecode b).mem = s.mem := rfl
@[simp] theorem State.controlDecode_alu (b : Byte) : (s.controlDecode b).alu = s.alu := rfl
@[simp] theorem State.controlDecode_cu (b : Byte) : (s.controlDecode b).cu = s.cu.decoded b := rfl
@[simp] theorem State.controlDecode_cycles (b : Byte) : (s.controlDecode b).cycles = s.cycles := rfl
@[simp] theorem State.controlDecode_dbus (b : Byte) : (s.controlDecode b).dbus = s.dbus := rfl
@[simp] theorem State.controlDecode_abus (b : Byte) : (s.controlDecode b).abus = s.abus := rfl
@[simp] theorem State.controlDecode_fpu (b : Byte) : (s.controlDecode b).fpu = s.fpu := rfl
@[simp] theorem State.controlDecode_srLatches (b : Byte) : (s.controlDecode b).srLatches = s.srLatches := rfl
@[simp] theorem State.controlDecode_dLatches (b : Byte) : (s.controlDecode b).dLatches = s.dLatches := rfl
@[simp] theorem State.controlDecode_gateOut (b : Byte) : (s.controlDecode b).gateOut = s.gateOut := rfl
@[simp] theorem State.controlDecode_ownedGates (b : Byte) : (s.controlDecode b).ownedGates = s.ownedGates := rfl
@[simp] theorem State.controlDecode_calls (b : Byte) : (s.controlDecode b).calls = s.calls := rfl
@[simp] theorem State.controlDecode_response (b : Byte) : (s.controlDecode b).response = s.response := rfl
@[simp] theorem State.controlDecode_draws (b : Byte) : (s.controlDecode b).draws = s.draws := rfl

/-! ### State.incrementPc -/

@[simp] theorem State.incrementPc_x : s.incrementPc.x = s.x := rfl
@[simp] theorem State.incrementPc_mem : s.incrementPc.mem = s.mem := rfl
@[simp] theorem State.incrementPc_alu : s.incrementPc.alu = s.alu := rfl
@[simp] theorem State.incrementPc_cu : s.incrementPc.cu = { s.cu with pc := s.cu.pc + 1 } := rfl
@[simp] theorem State.incrementPc_cycles : s.incrementPc.cycles = s.cycles := rfl
@[simp] theorem State.incrementPc_dbus : s.incrementPc.dbus = s.dbus := rfl
@[simp] theorem State.incrementPc_abus : s.incrementPc.abus = s.abus := rfl
@[simp] theorem State.incrementPc_fpu : s.incrementPc.fpu = s.fpu := rfl
@[simp] theorem State.incrementPc_srLatches : s.incrementPc.srLatches = s.srLatches := rfl
@[simp] theorem State.incrementPc_dLatches : s.incrementPc.dLatches = s.dLatches := rfl
@[simp] theorem State.incrementPc_gateOut : s.incrementPc.gateOut = s.gateOut := rfl
@[simp] theorem State.incrementPc_ownedGates : s.incrementPc.ownedGates = s.ownedGates := rfl
@[simp] theorem State.incrementPc_calls : s.incrementPc.calls = s.calls := rfl
@[simp] theorem State.incrementPc_response : s.incrementPc.response = s.response := rfl
@[simp] theorem State.incrementPc_draws : s.incrementPc.draws = s.draws := rfl

/-! ### State.countCycle -/

@[simp] theorem State.countCycle_x : s.countCycle.x = s.x := rfl
@[simp] theorem State.countCycle_mem : s.countCycle.mem = s.mem := rfl
@[simp] theorem State.countCycle_alu : s.countCycle.alu = s.alu := rfl
@[simp] theorem State.countCycle_cu : s.countCycle.cu = s.cu := rfl
@[simp] theorem State.countCycle_cycles : s.countCycle.cycles = s.cycles + 1 := rfl
@[simp] theorem State.countCycle_dbus : s.countCycle.dbus = s.dbus := rfl
@[simp] theorem State.countCycle_abus : s.countCycle.abus = s.abus := rfl
@[simp] theorem State.countCycle_fpu : s.countCycle.fpu = s.fpu := rfl
@[simp] theorem State.countCycle_srLatches : s.countCycle.srLatches = s.srLatches := rfl
@[simp] theorem State.countCycle_dLatches : s.countCycle.dLatches = s.dLatches := rfl
@[simp] theorem State.countCycle_gateOut : s.countCycle.gateOut = s.gateOut := rfl
@[simp] theorem State.countCycle_ownedGates : s.countCycle.ownedGates = s.ownedGates := rfl
@[simp] theorem State.countCycle_calls : s.countCycle.calls = s.calls := rfl
@[simp] theorem State.countCycle_response : s.countCycle.response = s.response := rfl
@[simp] theorem State.countCycle_draws : s.countCycle.draws = s.draws := rfl

/-! ### State.evalGate -/

@[simp] theorem State.evalGate_x (n : Nat) (g : GateInput) : (s.evalGate n g).x = s.x := rfl
@[simp] theorem State.evalGate_mem (n : Nat) (g : GateInput) : (s.evalGate n g).mem = s.mem := rfl
@[simp] theorem State.evalGate_alu (n : Nat) (g : GateInput) : (s.evalGate n g).alu = s.alu := rfl
@[simp] theorem State.evalGate_cu (n : Nat) (g : GateInput) : (s.evalGate n g).cu = s.cu := rfl
@[simp] theorem State.evalGate_cycles (n : Nat) (g : GateInput) : (s.evalGate n g).cycles = s.cycles := rfl
@[simp] theorem State.evalGate_dbus (n : Nat) (g : GateInput) : (s.evalGate n g).dbus = s.dbus := rfl
@[simp] theorem State.evalGate_abus (n : Nat) (g : GateInput) : (s.evalGate n g).abus = s.abus := rfl
@[simp] theorem State.evalGate_fpu (n : Nat) (g : GateInput) : (s.evalGate n g).fpu = s.fpu := rfl
@[simp] theorem State.evalGate_srLatches (n : Nat) (g : GateInput) : (s.evalGate n g).srLatches = s.srLatches := rfl
@[simp] theorem State.evalGate_dLatches (n : Nat) (g : GateInput) : (s.evalGate n g).dLatches = s.dLatches := rfl
@[simp] theorem State.evalGate_gateOut (n : Nat) (g : GateInput) :
    (s.evalGate n g).gateOut = storeWrite gateOutDefault s.gateOut (gateNumber g.kind n) g.output := rfl
@[simp] theorem State.evalGate_ownedGates (n : Nat) (g : GateInput) : (s.evalGate n g).ownedGates = s.ownedGates := rfl
@[simp] theorem State.evalGate_calls (n : Nat) (g : GateInput) : (s.evalGate n g).calls = s.calls := rfl
@[simp] theorem State.evalGate_response (n : Nat) (g : GateInput) : (s.evalGate n g).response = s.response := rfl
@[simp] theorem State.evalGate_draws (n : Nat) (g : GateInput) : (s.evalGate n g).draws = s.draws := rfl

/-! ### State.evalOwnedGates -/

@[simp] theorem State.evalOwnedGates_x : s.evalOwnedGates.x = s.x := rfl
@[simp] theorem State.evalOwnedGates_mem : s.evalOwnedGates.mem = s.mem := rfl
@[simp] theorem State.evalOwnedGates_alu : s.evalOwnedGates.alu = s.alu := rfl
@[simp] theorem State.evalOwnedGates_cu : s.evalOwnedGates.cu = s.cu := rfl
@[simp] theorem State.evalOwnedGates_cycles : s.evalOwnedGates.cycles = s.cycles := rfl
@[simp] theorem State.evalOwnedGates_dbus : s.evalOwnedGates.dbus = s.dbus := rfl
@[simp] theorem State.evalOwnedGates_abus : s.evalOwnedGates.abus = s.abus := rfl
@[simp] theorem State.evalOwnedGates_fpu : s.evalOwnedGates.fpu = s.fpu := rfl
@[simp] theorem State.evalOwnedGates_srLatches : s.evalOwnedGates.srLatches = s.srLatches := rfl
@[simp] theorem State.evalOwnedGates_dLatches : s.evalOwnedGates.dLatches = s.dLatches := rfl
@[simp] theorem State.evalOwnedGates_gateOut : s.evalOwnedGates.gateOut = s.gateOut := rfl
@[simp] theorem State.evalOwnedGates_ownedGates : s.evalOwnedGates.ownedGates = some s.draws := rfl
@[simp] theorem State.evalOwnedGates_calls : s.evalOwnedGates.calls = s.calls := rfl
@[simp] theorem State.evalOwnedGates_response : s.evalOwnedGates.response = s.response := rfl
@[simp] theorem State.evalOwnedGates_draws : s.evalOwnedGates.draws = s.draws + 1 := rfl

/-! ### State.applySrLatch -/

@[simp] theorem State.applySrLatch_x (n : Nat) (a b : Bit) : (s.applySrLatch n a b).x = s.x := rfl
@[simp] theorem State.applySrLatch_mem (n : Nat) (a b : Bit) : (s.applySrLatch n a b).mem = s.mem := rfl
@[simp] theorem State.applySrLatch_alu (n : Nat) (a b : Bit) : (s.applySrLatch n a b).alu = s.alu := rfl
@[simp] theorem State.applySrLatch_cu (n : Nat) (a b : Bit) : (s.applySrLatch n a b).cu = s.cu := rfl
@[simp] theorem State.applySrLatch_cycles (n : Nat) (a b : Bit) : (s.applySrLatch n a b).cycles = s.cycles := rfl
@[simp] theorem State.applySrLatch_dbus (n : Nat) (a b : Bit) : (s.applySrLatch n a b).dbus = s.dbus := rfl
@[simp] theorem State.applySrLatch_abus (n : Nat) (a b : Bit) : (s.applySrLatch n a b).abus = s.abus := rfl
@[simp] theorem State.applySrLatch_fpu (n : Nat) (a b : Bit) : (s.applySrLatch n a b).fpu = s.fpu := rfl
@[simp] theorem State.applySrLatch_srLatches (n : Nat) (a b : Bit) :
    (s.applySrLatch n a b).srLatches = storeWrite latchDefault s.srLatches n ((s.srLatch n).applySr a b) := rfl
@[simp] theorem State.applySrLatch_dLatches (n : Nat) (a b : Bit) : (s.applySrLatch n a b).dLatches = s.dLatches := rfl
@[simp] theorem State.applySrLatch_gateOut (n : Nat) (a b : Bit) : (s.applySrLatch n a b).gateOut = s.gateOut := rfl
@[simp] theorem State.applySrLatch_ownedGates (n : Nat) (a b : Bit) : (s.applySrLatch n a b).ownedGates = s.ownedGates := rfl
@[simp] theorem State.applySrLatch_calls (n : Nat) (a b : Bit) : (s.applySrLatch n a b).calls = s.calls := rfl
@[simp] theorem State.applySrLatch_response (n : Nat) (a b : Bit) : (s.applySrLatch n a b).response = s.response := rfl
@[simp] theorem State.applySrLatch_draws (n : Nat) (a b : Bit) : (s.applySrLatch n a b).draws = s.draws := rfl

/-! ### State.applyDLatch -/

@[simp] theorem State.applyDLatch_x (n : Nat) (a b : Bit) : (s.applyDLatch n a b).x = s.x := rfl
@[simp] theorem State.applyDLatch_mem (n : Nat) (a b : Bit) : (s.applyDLatch n a b).mem = s.mem := rfl
@[simp] theorem State.applyDLatch_alu (n : Nat) (a b : Bit) : (s.applyDLatch n a b).alu = s.alu := rfl
@[simp] theorem State.applyDLatch_cu (n : Nat) (a b : Bit) : (s.applyDLatch n a b).cu = s.cu := rfl
@[simp] theorem State.applyDLatch_cycles (n : Nat) (a b : Bit) : (s.applyDLatch n a b).cycles = s.cycles := rfl
@[simp] theorem State.applyDLatch_dbus (n : Nat) (a b : Bit) : (s.applyDLatch n a b).dbus = s.dbus := rfl
@[simp] theorem State.applyDLatch_abus (n : Nat) (a b : Bit) : (s.applyDLatch n a b).abus = s.abus := rfl
@[simp] theorem State.applyDLatch_fpu (n : Nat) (a b : Bit) : (s.applyDLatch n a b).fpu = s.fpu := rfl
@[simp] theorem State.applyDLatch_srLatches (n : Nat) (a b : Bit) : (s.applyDLatch n a b).srLatches = s.srLatches := rfl
@[simp] theorem State.applyDLatch_dLatches (n : Nat) (a b : Bit) :
    (s.applyDLatch n a b).dLatches = storeWrite latchDefault s.dLatches n ((s.dLatch n).applyD a b) := rfl
@[simp] theorem State.applyDLatch_gateOut (n : Nat) (a b : Bit) : (s.applyDLatch n a b).gateOut = s.gateOut := rfl
@[simp] theorem State.applyDLatch_ownedGates (n : Nat) (a b : Bit) : (s.applyDLatch n a b).ownedGates = s.ownedGates := rfl
@[simp] theorem State.applyDLatch_calls (n : Nat) (a b : Bit) : (s.applyDLatch n a b).calls = s.calls := rfl
@[simp] theorem State.applyDLatch_response (n : Nat) (a b : Bit) : (s.applyDLatch n a b).response = s.response := rfl
@[simp] theorem State.applyDLatch_draws (n : Nat) (a b : Bit) : (s.applyDLatch n a b).draws = s.draws := rfl

/-! ### State.setFpu -/

@[simp] theorem State.setFpu_x (o : FpuOut) : (s.setFpu o).x = s.x := rfl
@[simp] theorem State.setFpu_mem (o : FpuOut) : (s.setFpu o).mem = s.mem := rfl
@[simp] theorem State.setFpu_alu (o : FpuOut) : (s.setFpu o).alu = s.alu := rfl
@[simp] theorem State.setFpu_cu (o : FpuOut) : (s.setFpu o).cu = s.cu := rfl
@[simp] theorem State.setFpu_cycles (o : FpuOut) : (s.setFpu o).cycles = s.cycles := rfl
@[simp] theorem State.setFpu_dbus (o : FpuOut) : (s.setFpu o).dbus = s.dbus := rfl
@[simp] theorem State.setFpu_abus (o : FpuOut) : (s.setFpu o).abus = s.abus := rfl
@[simp] theorem State.setFpu_fpu (o : FpuOut) : (s.setFpu o).fpu = { isZero := o.isZero, isInfinity := o.isInfinity } := rfl
@[simp] theorem State.setFpu_srLatches (o : FpuOut) : (s.setFpu o).srLatches = s.srLatches := rfl
@[simp] theorem State.setFpu_dLatches (o : FpuOut) : (s.setFpu o).dLatches = s.dLatches := rfl
@[simp] theorem State.setFpu_gateOut (o : FpuOut) : (s.setFpu o).gateOut = s.gateOut := rfl
@[simp] theorem State.setFpu_ownedGates (o : FpuOut) : (s.setFpu o).ownedGates = s.ownedGates := rfl
@[simp] theorem State.setFpu_calls (o : FpuOut) : (s.setFpu o).calls = s.calls := rfl
@[simp] theorem State.setFpu_response (o : FpuOut) : (s.setFpu o).response = s.response := rfl
@[simp] theorem State.setFpu_draws (o : FpuOut) : (s.setFpu o).draws = o.draws := rfl

/-! ### State.setParsed -/

@[simp] theorem State.setParsed_x (o : FpuParsed) : (s.setParsed o).x = s.x := rfl
@[simp] theorem State.setParsed_mem (o : FpuParsed) : (s.setParsed o).mem = s.mem := rfl
@[simp] theorem State.setParsed_alu (o : FpuParsed) : (s.setParsed o).alu = s.alu := rfl
@[simp] theorem State.setParsed_cu (o : FpuParsed) : (s.setParsed o).cu = s.cu := rfl
@[simp] theorem State.setParsed_cycles (o : FpuParsed) : (s.setParsed o).cycles = s.cycles := rfl
@[simp] theorem State.setParsed_dbus (o : FpuParsed) : (s.setParsed o).dbus = s.dbus := rfl
@[simp] theorem State.setParsed_abus (o : FpuParsed) : (s.setParsed o).abus = s.abus := rfl
@[simp] theorem State.setParsed_fpu (o : FpuParsed) :
    (s.setParsed o).fpu = { isZero := o.isZero, isInfinity := o.isInfinity } := rfl
@[simp] theorem State.setParsed_srLatches (o : FpuParsed) : (s.setParsed o).srLatches = s.srLatches := rfl
@[simp] theorem State.setParsed_dLatches (o : FpuParsed) : (s.setParsed o).dLatches = s.dLatches := rfl
@[simp] theorem State.setParsed_gateOut (o : FpuParsed) : (s.setParsed o).gateOut = s.gateOut := rfl
@[simp] theorem State.setParsed_ownedGates (o : FpuParsed) : (s.setParsed o).ownedGates = s.ownedGates := rfl
@[simp] theorem State.setParsed_calls (o : FpuParsed) : (s.setParsed o).calls = s.calls := rfl
@[simp] theorem State.setParsed_response (o : FpuParsed) : (s.setParsed o).response = s.response := rfl
@[simp] theorem State.setParsed_draws (o : FpuParsed) : (s.setParsed o).draws = s.draws := rfl

/-! ### State.respond -/

@[simp] theorem State.respond_x (r : Response) : (s.respond r).x = s.x := rfl
@[simp] theorem State.respond_mem (r : Response) : (s.respond r).mem = s.mem := rfl
@[simp] theorem State.respond_alu (r : Response) : (s.respond r).alu = s.alu := rfl
@[simp] theorem State.respond_cu (r : Response) : (s.respond r).cu = s.cu := rfl
@[simp] theorem State.respond_cycles (r : Response) : (s.respond r).cycles = s.cycles := rfl
@[simp] theorem State.respond_dbus (r : Response) : (s.respond r).dbus = s.dbus := rfl
@[simp] theorem State.respond_abus (r : Response) : (s.respond r).abus = s.abus := rfl
@[simp] theorem State.respond_fpu (r : Response) : (s.respond r).fpu = s.fpu := rfl
@[simp] theorem State.respond_srLatches (r : Response) : (s.respond r).srLatches = s.srLatches := rfl
@[simp] theorem State.respond_dLatches (r : Response) : (s.respond r).dLatches = s.dLatches := rfl
@[simp] theorem State.respond_gateOut (r : Response) : (s.respond r).gateOut = s.gateOut := rfl
@[simp] theorem State.respond_ownedGates (r : Response) : (s.respond r).ownedGates = s.ownedGates := rfl
@[simp] theorem State.respond_calls (r : Response) : (s.respond r).calls = s.calls := rfl
@[simp] theorem State.respond_response (r : Response) : (s.respond r).response = r := rfl
@[simp] theorem State.respond_draws (r : Response) : (s.respond r).draws = s.draws := rfl

/-! ### State.setAlu -/

@[simp] theorem State.setAlu_x (w : Wide) (c o : Bit) : (s.setAlu w c o).x = s.x := rfl
@[simp] theorem State.setAlu_mem (w : Wide) (c o : Bit) : (s.setAlu w c o).mem = s.mem := rfl
@[simp] theorem State.setAlu_alu (w : Wide) (c o : Bit) :
    (s.setAlu w c o).alu = { result := w, flags := { s.alu.flags with carry := c, overflow := o } } := rfl
@[simp] theorem State.setAlu_cu (w : Wide) (c o : Bit) : (s.setAlu w c o).cu = s.cu := rfl
@[simp] theorem State.setAlu_cycles (w : Wide) (c o : Bit) : (s.setAlu w c o).cycles = s.cycles := rfl
@[simp] theorem State.setAlu_dbus (w : Wide) (c o : Bit) : (s.setAlu w c o).dbus = s.dbus := rfl
@[simp] theorem State.setAlu_abus (w : Wide) (c o : Bit) : (s.setAlu w c o).abus = s.abus := rfl
@[simp] theorem State.setAlu_fpu (w : Wide) (c o : Bit) : (s.setAlu w c o).fpu = s.fpu := rfl
@[simp] theorem State.setAlu_srLatches (w : Wide) (c o : Bit) : (s.setAlu w c o).srLatches = s.srLatches := rfl
@[simp] theorem State.setAlu_dLatches (w : Wide) (c o : Bit) : (s.setAlu w c o).dLatches = s.dLatches := rfl
@[simp] theorem State.setAlu_gateOut (w : Wide) (c o : Bit) : (s.setAlu w c o).gateOut = s.gateOut := rfl
@[simp] theorem State.setAlu_ownedGates (w : Wide) (c o : Bit) : (s.setAlu w c o).ownedGates = s.ownedGates := rfl
@[simp] theorem State.setAlu_calls (w : Wide) (c o : Bit) : (s.setAlu w c o).calls = s.calls := rfl
@[simp] theorem State.setAlu_response (w : Wide) (c o : Bit) : (s.setAlu w c o).response = s.response := rfl
@[simp] theorem State.setAlu_draws (w : Wide) (c o : Bit) : (s.setAlu w c o).draws = s.draws := rfl

/-! ### State.finishFlags -/

@[simp] theorem State.finishFlags_x : s.finishFlags.x = s.x := rfl
@[simp] theorem State.finishFlags_mem : s.finishFlags.mem = s.mem := rfl
@[simp] theorem State.finishFlags_alu :
    s.finishFlags.alu = { s.alu with flags := { s.alu.flags with zero := zeroOf s.alu.result, sign := signOf s.alu.result } } := rfl
@[simp] theorem State.finishFlags_cu : s.finishFlags.cu = s.cu := rfl
@[simp] theorem State.finishFlags_cycles : s.finishFlags.cycles = s.cycles := rfl
@[simp] theorem State.finishFlags_dbus : s.finishFlags.dbus = s.dbus := rfl
@[simp] theorem State.finishFlags_abus : s.finishFlags.abus = s.abus := rfl
@[simp] theorem State.finishFlags_fpu : s.finishFlags.fpu = s.fpu := rfl
@[simp] theorem State.finishFlags_srLatches : s.finishFlags.srLatches = s.srLatches := rfl
@[simp] theorem State.finishFlags_dLatches : s.finishFlags.dLatches = s.dLatches := rfl
@[simp] theorem State.finishFlags_gateOut : s.finishFlags.gateOut = s.gateOut := rfl
@[simp] theorem State.finishFlags_ownedGates : s.finishFlags.ownedGates = s.ownedGates := rfl
@[simp] theorem State.finishFlags_calls : s.finishFlags.calls = s.calls := rfl
@[simp] theorem State.finishFlags_response : s.finishFlags.response = s.response := rfl
@[simp] theorem State.finishFlags_draws : s.finishFlags.draws = s.draws := rfl

/-! ### State.resetListed -/

@[simp] theorem State.resetListed_x : s.resetListed.x = State.reset.x := rfl
@[simp] theorem State.resetListed_mem : s.resetListed.mem = State.reset.mem := rfl
@[simp] theorem State.resetListed_alu : s.resetListed.alu = s.alu := rfl
@[simp] theorem State.resetListed_cu : s.resetListed.cu = State.reset.cu := rfl
@[simp] theorem State.resetListed_cycles : s.resetListed.cycles = State.reset.cycles := rfl
@[simp] theorem State.resetListed_dbus : s.resetListed.dbus = s.dbus := rfl
@[simp] theorem State.resetListed_abus : s.resetListed.abus = s.abus := rfl
@[simp] theorem State.resetListed_fpu : s.resetListed.fpu = s.fpu := rfl
@[simp] theorem State.resetListed_srLatches : s.resetListed.srLatches = s.srLatches := rfl
@[simp] theorem State.resetListed_dLatches : s.resetListed.dLatches = s.dLatches := rfl
@[simp] theorem State.resetListed_gateOut : s.resetListed.gateOut = s.gateOut := rfl
@[simp] theorem State.resetListed_ownedGates : s.resetListed.ownedGates = s.ownedGates := rfl
@[simp] theorem State.resetListed_calls : s.resetListed.calls = s.calls := rfl
@[simp] theorem State.resetListed_response : s.resetListed.response = s.response := rfl
@[simp] theorem State.resetListed_draws : s.resetListed.draws = s.draws := rfl

/-! ### State.aluReturn -/

@[simp] theorem State.aluReturn_x : s.aluReturn.x = s.x := rfl
@[simp] theorem State.aluReturn_mem : s.aluReturn.mem = s.mem := rfl
@[simp] theorem State.aluReturn_alu : s.aluReturn.alu = s.finishFlags.alu := rfl
@[simp] theorem State.aluReturn_cu : s.aluReturn.cu = s.cu := rfl
@[simp] theorem State.aluReturn_cycles : s.aluReturn.cycles = s.cycles := rfl
@[simp] theorem State.aluReturn_dbus : s.aluReturn.dbus = s.dbus := rfl
@[simp] theorem State.aluReturn_abus : s.aluReturn.abus = s.abus := rfl
@[simp] theorem State.aluReturn_fpu : s.aluReturn.fpu = s.fpu := rfl
@[simp] theorem State.aluReturn_srLatches : s.aluReturn.srLatches = s.srLatches := rfl
@[simp] theorem State.aluReturn_dLatches : s.aluReturn.dLatches = s.dLatches := rfl
@[simp] theorem State.aluReturn_gateOut : s.aluReturn.gateOut = s.gateOut := rfl
@[simp] theorem State.aluReturn_ownedGates : s.aluReturn.ownedGates = s.ownedGates := rfl
@[simp] theorem State.aluReturn_calls : s.aluReturn.calls = s.calls := rfl
@[simp] theorem State.aluReturn_response : s.aluReturn.response = .alu s.finishFlags.alu.result s.finishFlags.alu.flags := rfl
@[simp] theorem State.aluReturn_draws : s.aluReturn.draws = s.draws := rfl

/-! ### State.instructionTail -/

@[simp] theorem State.instructionTail_x (d : Reg) (v : Byte) (l : Label) : (s.instructionTail d v l).x = s.x.set d.val v := rfl
@[simp] theorem State.instructionTail_mem (d : Reg) (v : Byte) (l : Label) : (s.instructionTail d v l).mem = s.mem := rfl
@[simp] theorem State.instructionTail_alu (d : Reg) (v : Byte) (l : Label) : (s.instructionTail d v l).alu = s.alu := rfl
@[simp] theorem State.instructionTail_cu (d : Reg) (v : Byte) (l : Label) :
    (s.instructionTail d v l).cu = { s.cu with pc := s.cu.pc + 1 } := rfl
@[simp] theorem State.instructionTail_cycles (d : Reg) (v : Byte) (l : Label) :
    (s.instructionTail d v l).cycles = s.cycles + 1 := rfl
@[simp] theorem State.instructionTail_dbus (d : Reg) (v : Byte) (l : Label) :
    (s.instructionTail d v l).dbus = { value := v.toNat, source := l, destination := .reg d } := rfl
@[simp] theorem State.instructionTail_abus (d : Reg) (v : Byte) (l : Label) : (s.instructionTail d v l).abus = s.abus := rfl
@[simp] theorem State.instructionTail_fpu (d : Reg) (v : Byte) (l : Label) : (s.instructionTail d v l).fpu = s.fpu := rfl
@[simp] theorem State.instructionTail_srLatches (d : Reg) (v : Byte) (l : Label) :
    (s.instructionTail d v l).srLatches = s.srLatches := rfl
@[simp] theorem State.instructionTail_dLatches (d : Reg) (v : Byte) (l : Label) :
    (s.instructionTail d v l).dLatches = s.dLatches := rfl
@[simp] theorem State.instructionTail_gateOut (d : Reg) (v : Byte) (l : Label) :
    (s.instructionTail d v l).gateOut = s.gateOut := rfl
@[simp] theorem State.instructionTail_ownedGates (d : Reg) (v : Byte) (l : Label) :
    (s.instructionTail d v l).ownedGates = s.ownedGates := rfl
@[simp] theorem State.instructionTail_calls (d : Reg) (v : Byte) (l : Label) : (s.instructionTail d v l).calls = s.calls := rfl
@[simp] theorem State.instructionTail_response (d : Reg) (v : Byte) (l : Label) :
    (s.instructionTail d v l).response = .executed ((((s.setReg d v).transfer v.toNat l (.reg d)).countCycle).incrementPc).execRecord := rfl
@[simp] theorem State.instructionTail_draws (d : Reg) (v : Byte) (l : Label) : (s.instructionTail d v l).draws = s.draws := rfl

end Sys2Proof.Machine
end

