-- ==== Sys2Proof/Laws/Store.lean ====
section
/-! SUPPORT. The sparse table: reading after a write, and the canonical form kept. -/

namespace Sys2Proof.Machine

variable {α : Type} [DecidableEq α]

omit [DecidableEq α] in
theorem storeRead_of_below (d : α) (l : List (Nat × α)) (n : Nat) (h : ∀ c ∈ l, n < c.1) : storeRead d l n = d := by
  induction l with
  | nil => rfl
  | cons c rest ih =>
    obtain ⟨k, v⟩ := c
    have hk : n < k := h (k, v) (by simp)
    have : k ≠ n := by omega
    simp only [storeRead, this, if_false]
    exact ih fun c hc => h c (by simp [hc])

theorem storeWf_cons (d : α) (k : Nat) (v : α) (rest : List (Nat × α)) :
    storeWf d ((k, v) :: rest) = true ↔ v ≠ d ∧ (∀ c ∈ rest, k < c.1) ∧ storeWf d rest = true := by
  simp [storeWf, and_assoc]

/-- Reading behind an entry put in front of a table that does not list its number. -/
theorem storeRead_storeCons (d : α) (n : Nat) (v : α) (rest : List (Nat × α)) (h : storeRead d rest n = d) (m : Nat) :
    storeRead d (storeCons d n v rest) m = if m = n then v else storeRead d rest m := by
  unfold storeCons
  split
  · rename_i hv
    subst hv
    split
    · rename_i hm; rw [hm, h]
    · rfl
  · by_cases hm : m = n
    · simp [storeRead, hm]
    · have : n ≠ m := fun e => hm e.symm
      simp [storeRead, hm, this]

/-- A read after a write of a canonical table. -/
theorem storeRead_storeWrite (d : α) (l : List (Nat × α)) (n m : Nat) (v : α) (h : storeWf d l = true) :
    storeRead d (storeWrite d l n v) m = if m = n then v else storeRead d l m := by
  induction l with
  | nil => exact storeRead_storeCons d n v [] rfl m
  | cons c rest ih =>
    obtain ⟨k, w⟩ := c
    obtain ⟨_, hlow, hrest⟩ := (storeWf_cons d k w rest).1 h
    have hbelow : ∀ j ≤ k, storeRead d rest j = d := fun j hj =>
      storeRead_of_below d rest j fun c hc => Nat.lt_of_le_of_lt hj (hlow c hc)
    simp only [storeWrite]
    split
    · rename_i hlt
      have : storeRead d ((k, w) :: rest) n = d := by
        have hk : k ≠ n := by omega
        simp only [storeRead, hk, if_false]
        exact hbelow n (by omega)
      rw [storeRead_storeCons d n v _ this]
    · split
      · rename_i heq
        subst heq
        rw [storeRead_storeCons d n v rest (hbelow n (Nat.le_refl n))]
        by_cases hm : m = n
        · simp [hm]
        · have : n ≠ m := fun e => hm e.symm
          simp [hm, storeRead, this]
      · rename_i hlt heq
        by_cases hm : m = n
        · subst hm
          have : k ≠ m := fun e => heq e.symm
          simp [storeRead, this, ih hrest]
        · simp [storeRead, ih hrest, hm]

/-- Every entry of a written table is an old one or the new one. -/
theorem mem_storeWrite (d : α) (l : List (Nat × α)) (n : Nat) (v : α) (c : Nat × α) (h : c ∈ storeWrite d l n v) :
    c ∈ l ∨ c = (n, v) := by
  induction l with
  | nil => by_cases hv : v = d <;> simp_all [storeWrite, storeCons]
  | cons e rest ih =>
    obtain ⟨k, w⟩ := e
    simp only [storeWrite, storeCons] at h
    split at h
    · split at h <;> simp_all
      tauto
    · split at h
      · split at h <;> simp_all
        tauto
      · rcases List.mem_cons.1 h with h | h
        · exact .inl (by simp [h])
        · rcases ih h with h | h
          · exact .inl (by simp [h])
          · exact .inr h

/-- A write keeps the canonical form. -/
theorem storeWf_storeWrite (d : α) (l : List (Nat × α)) (n : Nat) (v : α) (h : storeWf d l = true) :
    storeWf d (storeWrite d l n v) = true := by
  induction l with
  | nil => by_cases hv : v = d <;> simp [storeWrite, storeCons, hv, storeWf]
  | cons e rest ih =>
    obtain ⟨k, w⟩ := e
    obtain ⟨hw, hlow, hrest⟩ := (storeWf_cons d k w rest).1 h
    simp only [storeWrite, storeCons]
    split
    · rename_i hlt
      split
      · exact h
      · rename_i hv
        refine (storeWf_cons d n v _).2 ⟨hv, ?_, h⟩
        intro c hc
        rcases List.mem_cons.1 hc with rfl | hc
        · exact hlt
        · exact Nat.lt_trans hlt (hlow c hc)
    · split
      · rename_i heq
        subst heq
        split
        · exact hrest
        · rename_i hv
          exact (storeWf_cons d n v rest).2 ⟨hv, hlow, hrest⟩
      · rename_i hlt heq
        refine (storeWf_cons d k w _).2 ⟨hw, ?_, ih hrest⟩
        intro c hc
        rcases mem_storeWrite d rest n v c hc with hc | rfl
        · exact hlow c hc
        · exact Nat.lt_of_le_of_ne (Nat.not_lt.1 hlt) (Ne.symm heq)

/-- Two canonical tables that read the same everywhere are the same list. -/
theorem store_ext (d : α) (l m : List (Nat × α)) (hl : storeWf d l = true) (hm : storeWf d m = true)
    (h : ∀ n, storeRead d l n = storeRead d m n) : l = m := by
  induction l generalizing m with
  | nil =>
    cases m with
    | nil => rfl
    | cons c rest =>
      obtain ⟨k, v⟩ := c
      have := h k
      simp [storeRead] at this
      exact absurd this.symm ((storeWf_cons d k v rest).1 hm).1
  | cons c rest ih =>
    obtain ⟨k, v⟩ := c
    obtain ⟨hv, hlow, hrest⟩ := (storeWf_cons d k v rest).1 hl
    cases m with
    | nil =>
      have := h k
      simp [storeRead] at this
      exact absurd this hv
    | cons c' rest' =>
      obtain ⟨k', v'⟩ := c'
      obtain ⟨hv', hlow', hrest'⟩ := (storeWf_cons d k' v' rest').1 hm
      have hkk : k = k' := by
        by_contra hne
        rcases Nat.lt_or_gt_of_ne hne with hlt | hlt
        · have := h k
          rw [storeRead_of_below d ((k', v') :: rest') k] at this
          · simp [storeRead] at this; exact hv this
          · intro c hc
            rcases List.mem_cons.1 hc with rfl | hc
            · exact hlt
            · exact Nat.lt_trans hlt (hlow' c hc)
        · have := h k'
          rw [storeRead_of_below d ((k, v) :: rest) k'] at this
          · simp [storeRead] at this; exact hv' this.symm
          · intro c hc
            rcases List.mem_cons.1 hc with rfl | hc
            · exact hlt
            · exact Nat.lt_trans hlt (hlow c hc)
      subst hkk
      have hvv : v = v' := by simpa [storeRead] using h k
      subst hvv
      have : rest = rest' := by
        refine ih rest' hrest hrest' fun n => ?_
        by_cases hn : k = n
        · subst hn
          rw [storeRead_of_below d rest k hlow, storeRead_of_below d rest' k hlow']
        · simpa [storeRead, hn] using h n
      rw [this]

end Sys2Proof.Machine
end

