-- ==== Sys2Proof/Laws/Memory.lean ====
section
/-! SUPPORT. Memory: every memory operation keeps the canonical form, and a read after a write. -/

namespace Sys2Proof.Machine

theorem Memory.wf_iff (m : Memory) :
    Memory.wf m = true ↔ storeWf memoryDefault m = true ∧ ∀ c ∈ m, c.1 < 256 := by
  simp [Memory.wf]

theorem Memory.wf_write (m : Memory) (a : Nat) (v : Byte) (ha : a < 256) (h : Memory.wf m = true) :
    Memory.wf (Memory.write m a v) = true := by
  obtain ⟨h1, h2⟩ := (Memory.wf_iff m).1 h
  refine (Memory.wf_iff _).2 ⟨storeWf_storeWrite _ _ _ _ h1, fun c hc => ?_⟩
  rcases mem_storeWrite _ _ _ _ c hc with hc | rfl
  · exact h2 c hc
  · exact ha

theorem Memory.read_write (m : Memory) (a b : Nat) (v : Byte) (h : Memory.wf m = true) :
    Memory.read (Memory.write m a v) b = if b = a then v else Memory.read m b :=
  storeRead_storeWrite _ _ _ _ _ ((Memory.wf_iff m).1 h).1

theorem isAddress_toNat (a : Int) (h : isAddress a = true) : a.toNat < 256 := by
  simp [isAddress] at h
  omega

theorem State.memoryWrite_wf (s : State) (a v : Int) (h : Memory.wf s.mem = true) :
    Memory.wf (s.memoryWrite a v).mem = true := by
  unfold State.memoryWrite
  split
  · exact Memory.wf_write _ _ _ (isAddress_toNat a ‹_›) h
  · exact h

theorem State.loadMemory_wf (s : State) (a v : Int) (h : Memory.wf s.mem = true) :
    Memory.wf (s.loadMemory a v).mem = true :=
  State.memoryWrite_wf _ a v (by simpa using h)

theorem State.resetCall_wf (p : Config.Params) (s : State) : Memory.wf (s.resetCall p).mem = true := by
  unfold State.resetCall
  split <;> rfl

theorem reset_memory_wf : Memory.wf State.reset.mem = true := rfl

/-- The fields `Memory.write` leaves alone. -/
theorem State.memoryWrite_eq (s : State) (a v : Int) :
    s.memoryWrite a v = { s with mem := (s.memoryWrite a v).mem } := by
  unfold State.memoryWrite
  split <;> rfl

/-- The fields `RegisterFile.write` leaves alone. -/
theorem State.registerWrite_eq (s : State) (i v : Int) :
    s.registerWrite i v = { s with x := (s.registerWrite i v).x } := by
  unfold State.registerWrite
  split <;> rfl

@[simp] theorem State.reg_setReg_same (s : State) (r : Reg) (v : Byte) : (s.setReg r v).reg r = v := by
  simp [State.reg, State.setReg]

@[simp] theorem State.reg_setReg_other (s : State) (r q : Reg) (v : Byte) (h : q ≠ r) : (s.setReg r v).reg q = s.reg q := by
  have : r.val ≠ q.val := fun e => h (Fin.ext e.symm)
  simp [State.reg, State.setReg, this]

theorem regOfIndex_reg (r : Reg) : regOfIndex (r.val : Int) = some r := by
  simp [regOfIndex]

/-- R175: the read of a source register is the register. -/
@[simp] theorem State.sourceOperand_eq (s : State) (r : Reg) : s.sourceOperand r = s.reg r := by
  simp [State.sourceOperand, State.registerRead, regOfIndex_reg]

end Sys2Proof.Machine
end

