-- ==== Sys2Proof/Laws/Exec.lean ====
section
/-! SUPPORT. Once for each shared operation over the state, and for each instruction: everything it does, as one record. -/

namespace Sys2Proof.Machine

/-- The control unit after `execute_instruction`. -/
def ControlUnit.executed (c : ControlUnit) (b : Byte) : ControlUnit := { c.decoded b with pc := c.pc + 1 }

/-- The flags after a path that wrote `carry` and `overflow` (R136, R137). -/
def flagsAfter (result : Wide) (carry overflow : Bit) : Flags :=
  { carry := carry, zero := zeroOf result, overflow := overflow, sign := signOf result }

/-- R175: the whole of `execute_instruction`, from what the ALU path left. -/
theorem executeWith_eq (o : BitVec 2) (path : Byte → Byte → State → State) (d s1 s2 : Reg) (s : State) :
    executeWith o path d s1 s2 s =
      (path (s.reg s1) (s.reg s2) (s.controlDecode (encodeByte o d s1 s2))).finishFlags.instructionTail d
        (lowByte (path (s.reg s1) (s.reg s2) (s.controlDecode (encodeByte o d s1 s2))).alu.result) .alu := by
  simp [executeWith]

theorem exec_add (d s1 s2 : Reg) (s : State) :
    exec (.add d s1 s2) s = .next (executeWith 0 aluPathAdd d s1 s2 s) := rfl

theorem exec_sub (d s1 s2 : Reg) (s : State) :
    exec (.sub d s1 s2) s = .next (executeWith 1 (aluPathSub Config.params) d s1 s2 s) := rfl

theorem exec_mul (d s1 s2 : Reg) (s : State) :
    exec (.mul d s1 s2) s = .next (executeWith 2 (aluPathMul Config.params) d s1 s2 s) := rfl

theorem exec_mov (d s1 s2 : Reg) (s : State) :
    exec (.mov d s1 s2) s = .next (executeWith 3 (aluPathDiv Config.params) d s1 s2 s) := rfl

theorem aluPathAdd_eq (a b : Byte) (s : State) :
    aluPathAdd a b s =
      { s with alu := { result := zext16 (rca8 a b).sum,
                        flags := { s.alu.flags with carry := (rca8 a b).carryOut, overflow := (rca8 a b).overflow } },
               ownedGates := some s.draws, draws := s.draws + 1 } := rfl

theorem aluPathSub_eq (a b : Byte) (s : State) :
    aluPathSub Config.params a b s =
      { s with alu := { result := zext16 (sub8 Config.params a b).result,
                        flags := { s.alu.flags with carry := (sub8 Config.params a b).borrowOut } },
               ownedGates := some s.draws, draws := s.draws + 1 } := rfl

theorem aluPathMul_eq (a b : Byte) (s : State) :
    aluPathMul Config.params a b s =
      { s with alu := { result := shiftAndAdd a b, flags := { s.alu.flags with carry := false } },
               ownedGates := some s.draws, draws := s.draws + 1 } := rfl

theorem aluPathDiv_eq (a b : Byte) (s : State) :
    aluPathDiv Config.params a b s =
      { s with alu := { result := lowFirst (div8 a b).quotient (div8 a b).remainder,
                        flags := { s.alu.flags with carry := (div8 a b).divByZero } } } := rfl

/-- What either float path does with the unit's output. -/
def State.afterFloat (s : State) (o : FpuOut) : State :=
  { s with alu := { result := zext16 o.bits, flags := { s.alu.flags with carry := false } },
           fpu := { isZero := o.isZero, isInfinity := o.isInfinity }, draws := o.draws }

theorem aluPathFadd_eq (a b : Byte) (s : State) :
    aluPathFadd Config.params a b s = s.afterFloat (fpuAdd Config.params s.draws a b) := rfl

theorem aluPathFmul_eq (a b : Byte) (s : State) :
    aluPathFmul Config.params a b s = s.afterFloat (fpuMultiply Config.params s.draws a b) := rfl

theorem aluPathUnmapped_eq (s : State) : aluPathUnmapped Config.params s = s := rfl

/-- An instruction of format I8 completes, and its whole effect is one of four records. -/
theorem exec_i8 (i : Instr) (s : State) (h : i.format = .i8) :
    ∃ (o : BitVec 2) (d s1 s2 : Reg) (path : Byte → Byte → State → State),
      exec i s = .next (executeWith o path d s1 s2 s) ∧ encode i = [encodeByte o d s1 s2] ∧
        (path = aluPathAdd ∨ path = aluPathSub Config.params ∨ path = aluPathMul Config.params ∨
          path = aluPathDiv Config.params) := by
  cases i with
  | add d a b => exact ⟨0, d, a, b, _, rfl, rfl, .inl rfl⟩
  | sub d a b => exact ⟨1, d, a, b, _, rfl, rfl, .inr (.inl rfl)⟩
  | mul d a b => exact ⟨2, d, a, b, _, rfl, rfl, .inr (.inr (.inl rfl))⟩
  | mov d a b => exact ⟨3, d, a, b, _, rfl, rfl, .inr (.inr (.inr rfl))⟩
  | aluAdd a b => cases h
  | aluSub a b => cases h
  | aluMul a b => cases h
  | aluDiv a b => cases h
  | aluFadd a b => cases h
  | aluFmul a b => cases h
  | aluNop6 a b => cases h
  | aluNop7 a b => cases h

/-! ### The whole effect of every instruction, as one record -/

theorem zeroOf_zext16 : ∀ v : Byte, zeroOf (zext16 v) = decide (v = 0) := by decide +kernel

theorem signOf_zext16 : ∀ v : Byte, signOf (zext16 v) = v.getLsbD 7 := by decide +kernel

/-- What `execute_instruction` leaves when the ALU's path leaves `result`, `carry` and `overflow`. The gate outputs and the draws are
the path's. -/
def State.afterInstruction (s : State) (b : Byte) (d : Reg) (result : Wide) (carry overflow : Bit) : State :=
  { s with x := s.x.set d.val (lowByte result), alu := { result := result, flags := flagsAfter result carry overflow },
           cu := s.cu.executed b, cycles := s.cycles + 1,
           dbus := { value := (lowByte result).toNat, source := .alu, destination := .reg d },
           response := .executed
             { result16 := result, resultLow := lowByte result, flags := flagsAfter result carry overflow,
               opcode := fieldOpcode b, dst := fieldDst b, src1 := fieldSrc1 b, src2 := fieldSrc2 b,
               opName := opNameOf (fieldOpcode b), cycles := s.cycles + 1, pc := s.cu.pc + 1 } }

/-- What a direct call of the ALU leaves when its path leaves `result`, `carry` and `overflow`. -/
def State.afterAlu (s : State) (result : Wide) (carry overflow : Bit) : State :=
  { s with alu := { result := result, flags := flagsAfter result carry overflow },
           response := .alu result (flagsAfter result carry overflow) }

@[simp] theorem State.afterInstruction_x (s : State) (b : Byte) (d : Reg) (w : Wide) (c o : Bit) :
    (s.afterInstruction b d w c o).x = s.x.set d.val (lowByte w) := rfl
@[simp] theorem State.afterInstruction_mem (s : State) (b : Byte) (d : Reg) (w : Wide) (c o : Bit) :
    (s.afterInstruction b d w c o).mem = s.mem := rfl
@[simp] theorem State.afterInstruction_alu (s : State) (b : Byte) (d : Reg) (w : Wide) (c o : Bit) :
    (s.afterInstruction b d w c o).alu = { result := w, flags := flagsAfter w c o } := rfl
@[simp] theorem State.afterInstruction_cu (s : State) (b : Byte) (d : Reg) (w : Wide) (c o : Bit) :
    (s.afterInstruction b d w c o).cu = s.cu.executed b := rfl
@[simp] theorem State.afterInstruction_cycles (s : State) (b : Byte) (d : Reg) (w : Wide) (c o : Bit) :
    (s.afterInstruction b d w c o).cycles = s.cycles + 1 := rfl
@[simp] theorem State.afterInstruction_dbus (s : State) (b : Byte) (d : Reg) (w : Wide) (c o : Bit) :
    (s.afterInstruction b d w c o).dbus = { value := (lowByte w).toNat, source := .alu, destination := .reg d } := rfl
@[simp] theorem State.afterInstruction_abus (s : State) (b : Byte) (d : Reg) (w : Wide) (c o : Bit) :
    (s.afterInstruction b d w c o).abus = s.abus := rfl
@[simp] theorem State.afterInstruction_fpu (s : State) (b : Byte) (d : Reg) (w : Wide) (c o : Bit) :
    (s.afterInstruction b d w c o).fpu = s.fpu := rfl
@[simp] theorem State.afterInstruction_srLatches (s : State) (b : Byte) (d : Reg) (w : Wide) (c o : Bit) :
    (s.afterInstruction b d w c o).srLatches = s.srLatches := rfl
@[simp] theorem State.afterInstruction_dLatches (s : State) (b : Byte) (d : Reg) (w : Wide) (c o : Bit) :
    (s.afterInstruction b d w c o).dLatches = s.dLatches := rfl
@[simp] theorem State.afterInstruction_gateOut (s : State) (b : Byte) (d : Reg) (w : Wide) (c o : Bit) :
    (s.afterInstruction b d w c o).gateOut = s.gateOut := rfl
@[simp] theorem State.afterInstruction_ownedGates (s : State) (b : Byte) (d : Reg) (w : Wide) (c o : Bit) :
    (s.afterInstruction b d w c o).ownedGates = s.ownedGates := rfl
@[simp] theorem State.afterInstruction_calls (s : State) (b : Byte) (d : Reg) (w : Wide) (c o : Bit) :
    (s.afterInstruction b d w c o).calls = s.calls := rfl
@[simp] theorem State.afterInstruction_response (s : State) (b : Byte) (d : Reg) (w : Wide) (c o : Bit) :
    (s.afterInstruction b d w c o).response = .executed
      { result16 := w, resultLow := lowByte w, flags := flagsAfter w c o, opcode := fieldOpcode b, dst := fieldDst b,
        src1 := fieldSrc1 b, src2 := fieldSrc2 b, opName := opNameOf (fieldOpcode b), cycles := s.cycles + 1,
        pc := s.cu.pc + 1 } := rfl
@[simp] theorem State.afterInstruction_draws (s : State) (b : Byte) (d : Reg) (w : Wide) (c o : Bit) :
    (s.afterInstruction b d w c o).draws = s.draws := rfl

@[simp] theorem State.afterAlu_x (s : State) (w : Wide) (c o : Bit) :
    (s.afterAlu w c o).x = s.x := rfl
@[simp] theorem State.afterAlu_mem (s : State) (w : Wide) (c o : Bit) :
    (s.afterAlu w c o).mem = s.mem := rfl
@[simp] theorem State.afterAlu_alu (s : State) (w : Wide) (c o : Bit) :
    (s.afterAlu w c o).alu = { result := w, flags := flagsAfter w c o } := rfl
@[simp] theorem State.afterAlu_cu (s : State) (w : Wide) (c o : Bit) :
    (s.afterAlu w c o).cu = s.cu := rfl
@[simp] theorem State.afterAlu_cycles (s : State) (w : Wide) (c o : Bit) :
    (s.afterAlu w c o).cycles = s.cycles := rfl
@[simp] theorem State.afterAlu_dbus (s : State) (w : Wide) (c o : Bit) :
    (s.afterAlu w c o).dbus = s.dbus := rfl
@[simp] theorem State.afterAlu_abus (s : State) (w : Wide) (c o : Bit) :
    (s.afterAlu w c o).abus = s.abus := rfl
@[simp] theorem State.afterAlu_fpu (s : State) (w : Wide) (c o : Bit) :
    (s.afterAlu w c o).fpu = s.fpu := rfl
@[simp] theorem State.afterAlu_srLatches (s : State) (w : Wide) (c o : Bit) :
    (s.afterAlu w c o).srLatches = s.srLatches := rfl
@[simp] theorem State.afterAlu_dLatches (s : State) (w : Wide) (c o : Bit) :
    (s.afterAlu w c o).dLatches = s.dLatches := rfl
@[simp] theorem State.afterAlu_gateOut (s : State) (w : Wide) (c o : Bit) :
    (s.afterAlu w c o).gateOut = s.gateOut := rfl
@[simp] theorem State.afterAlu_ownedGates (s : State) (w : Wide) (c o : Bit) :
    (s.afterAlu w c o).ownedGates = s.ownedGates := rfl
@[simp] theorem State.afterAlu_calls (s : State) (w : Wide) (c o : Bit) :
    (s.afterAlu w c o).calls = s.calls := rfl
@[simp] theorem State.afterAlu_response (s : State) (w : Wide) (c o : Bit) :
    (s.afterAlu w c o).response = .alu w (flagsAfter w c o) := rfl
@[simp] theorem State.afterAlu_draws (s : State) (w : Wide) (c o : Bit) :
    (s.afterAlu w c o).draws = s.draws := rfl

@[simp] theorem State.afterInstruction_reg_same (s : State) (b : Byte) (d : Reg) (w : Wide) (c o : Bit) :
    (s.afterInstruction b d w c o).reg d = lowByte w := by
  simp [State.reg]

@[simp] theorem State.afterInstruction_reg_other (s : State) (b : Byte) (d r : Reg) (w : Wide) (c o : Bit) (h : r ≠ d) :
    (s.afterInstruction b d w c o).reg r = s.reg r := by
  have : d.val ≠ r.val := fun e => h (Fin.ext e.symm)
  simp [State.reg, this]

@[simp] theorem State.afterAlu_reg (s : State) (w : Wide) (c o : Bit) (r : Reg) : (s.afterAlu w c o).reg r = s.reg r := rfl

theorem exec_add_eq (d s1 s2 : Reg) (s : State) :
    exec (.add d s1 s2) s = .next (s.evalOwnedGates.afterInstruction (encodeByte 0 d s1 s2) d
      (zext16 (rca8 (s.reg s1) (s.reg s2)).sum) (rca8 (s.reg s1) (s.reg s2)).carryOut
      (rca8 (s.reg s1) (s.reg s2)).overflow) := by
  rw [exec_add, executeWith_eq]
  generalize s.reg s1 = a
  generalize s.reg s2 = b
  simp only [aluPathAdd_eq]
  generalize rca8 a b = r
  rfl

theorem exec_sub_eq (d s1 s2 : Reg) (s : State) :
    exec (.sub d s1 s2) s = .next (s.evalOwnedGates.afterInstruction (encodeByte 1 d s1 s2) d
      (zext16 (sub8 Config.params (s.reg s1) (s.reg s2)).result) (sub8 Config.params (s.reg s1) (s.reg s2)).borrowOut
      s.alu.flags.overflow) := by
  rw [exec_sub, executeWith_eq]
  generalize s.reg s1 = a
  generalize s.reg s2 = b
  simp only [aluPathSub_eq]
  generalize sub8 Config.params a b = r
  rfl

theorem exec_mul_eq (d s1 s2 : Reg) (s : State) :
    exec (.mul d s1 s2) s = .next (s.evalOwnedGates.afterInstruction (encodeByte 2 d s1 s2) d
      (shiftAndAdd (s.reg s1) (s.reg s2)) false s.alu.flags.overflow) := by
  rw [exec_mul, executeWith_eq]
  generalize s.reg s1 = a
  generalize s.reg s2 = b
  simp only [aluPathMul_eq]
  generalize shiftAndAdd a b = r
  rfl

theorem exec_mov_eq (d s1 s2 : Reg) (s : State) :
    exec (.mov d s1 s2) s = .next (s.afterInstruction (encodeByte 3 d s1 s2) d
      (lowFirst (div8 (s.reg s1) (s.reg s2)).quotient (div8 (s.reg s1) (s.reg s2)).remainder)
      (div8 (s.reg s1) (s.reg s2)).divByZero s.alu.flags.overflow) := by
  rw [exec_mov, executeWith_eq]
  generalize s.reg s1 = a
  generalize s.reg s2 = b
  simp only [aluPathDiv_eq]
  generalize div8 a b = r
  rfl

theorem exec_aluAdd_eq (a b : Byte) (s : State) :
    exec (.aluAdd a b) s = .next (s.evalOwnedGates.afterAlu (zext16 (rca8 a b).sum) (rca8 a b).carryOut (rca8 a b).overflow) := by
  show Host.Outcome.next (aluPathAdd a b s).aluReturn = _
  rw [aluPathAdd_eq]
  generalize rca8 a b = r
  rfl

theorem exec_aluSub_eq (a b : Byte) (s : State) :
    exec (.aluSub a b) s = .next (s.evalOwnedGates.afterAlu (zext16 (sub8 Config.params a b).result)
      (sub8 Config.params a b).borrowOut s.alu.flags.overflow) := by
  show Host.Outcome.next (aluPathSub Config.params a b s).aluReturn = _
  rw [aluPathSub_eq]
  generalize sub8 Config.params a b = r
  rfl

theorem exec_aluMul_eq (a b : Byte) (s : State) :
    exec (.aluMul a b) s = .next (s.evalOwnedGates.afterAlu (shiftAndAdd a b) false s.alu.flags.overflow) := by
  show Host.Outcome.next (aluPathMul Config.params a b s).aluReturn = _
  rw [aluPathMul_eq]
  generalize shiftAndAdd a b = r
  rfl

theorem exec_aluDiv_eq (a b : Byte) (s : State) :
    exec (.aluDiv a b) s = .next (s.afterAlu (lowFirst (div8 a b).quotient (div8 a b).remainder) (div8 a b).divByZero
      s.alu.flags.overflow) := by
  show Host.Outcome.next (aluPathDiv Config.params a b s).aluReturn = _
  rw [aluPathDiv_eq]
  generalize div8 a b = r
  rfl

theorem exec_aluFadd_eq (a b : Byte) (s : State) :
    exec (.aluFadd a b) s = .next ((s.setFpu (fpuAdd Config.params s.draws a b)).afterAlu
      (zext16 (fpuAdd Config.params s.draws a b).bits) false s.alu.flags.overflow) := by
  show Host.Outcome.next (aluPathFadd Config.params a b s).aluReturn = _
  rw [aluPathFadd_eq]
  generalize fpuAdd Config.params s.draws a b = r
  rfl

theorem exec_aluFmul_eq (a b : Byte) (s : State) :
    exec (.aluFmul a b) s = .next ((s.setFpu (fpuMultiply Config.params s.draws a b)).afterAlu
      (zext16 (fpuMultiply Config.params s.draws a b).bits) false s.alu.flags.overflow) := by
  show Host.Outcome.next (aluPathFmul Config.params a b s).aluReturn = _
  rw [aluPathFmul_eq]
  generalize fpuMultiply Config.params s.draws a b = r
  rfl

theorem exec_aluNop6_eq (a b : Byte) (s : State) :
    exec (.aluNop6 a b) s = .next (s.afterAlu s.alu.result s.alu.flags.carry s.alu.flags.overflow) := rfl

theorem exec_aluNop7_eq (a b : Byte) (s : State) :
    exec (.aluNop7 a b) s = .next (s.afterAlu s.alu.result s.alu.flags.carry s.alu.flags.overflow) := rfl

/-- What one step does: nothing where no call is left, else the next call in the state without it. -/
theorem step_nil (s : State) (h : s.calls = []) : step s = .next s := by simp [step, h]

theorem step_cons (s : State) (c : HostCall) (rest : List HostCall) (h : s.calls = c :: rest) :
    step s = performCall c { s with calls := rest } := by simp [step, h]

end Sys2Proof.Machine
end

