-- ==== Sys2Proof/Laws/PerInstr.lean ====
section
/-! SUPPORT. The per-instruction family FixedBits: the first encoded byte of an instruction carries the fixed bits of its row of
spec/opcode_table.json ("match" and "mask"), whatever the operands. -/

namespace Sys2Proof.Laws

/-- The row's "mask". -/
def rowMask : Instr → Nat
  | .add _ _ _ => 0xC0
  | .sub _ _ _ => 0xC0
  | .mul _ _ _ => 0xC0
  | .mov _ _ _ => 0xC0
  | .aluAdd _ _ => 0x7
  | .aluSub _ _ => 0x7
  | .aluMul _ _ => 0x7
  | .aluDiv _ _ => 0x7
  | .aluFadd _ _ => 0x7
  | .aluFmul _ _ => 0x7
  | .aluNop6 _ _ => 0x7
  | .aluNop7 _ _ => 0x7

/-- The row's "match". -/
def rowMatch : Instr → Nat
  | .add _ _ _ => 0x00
  | .sub _ _ _ => 0x40
  | .mul _ _ _ => 0x80
  | .mov _ _ _ => 0xC0
  | .aluAdd _ _ => 0x0
  | .aluSub _ _ => 0x1
  | .aluMul _ _ => 0x2
  | .aluDiv _ _ => 0x3
  | .aluFadd _ _ => 0x4
  | .aluFmul _ _ => 0x5
  | .aluNop6 _ _ => 0x6
  | .aluNop7 _ _ => 0x7

/-- The fixed bits of the row stand in the first encoded byte. -/
def FixedBits.Statement (i : Instr) : Prop :=
  ∃ b rest, encode i = b :: rest ∧ b.toNat &&& rowMask i = rowMatch i

theorem encodeByte_fixed_bits :
    ∀ (o : BitVec 2) (d s1 s2 : Reg), (encodeByte o d s1 s2).toNat &&& 0xC0 = 64 * o.toNat := by decide +kernel

theorem FixedBits.add (d s1 s2 : Reg) : FixedBits.Statement (.add d s1 s2) :=
  ⟨_, _, rfl, encodeByte_fixed_bits 0 d s1 s2⟩

theorem FixedBits.sub (d s1 s2 : Reg) : FixedBits.Statement (.sub d s1 s2) :=
  ⟨_, _, rfl, encodeByte_fixed_bits 1 d s1 s2⟩

theorem FixedBits.mul (d s1 s2 : Reg) : FixedBits.Statement (.mul d s1 s2) :=
  ⟨_, _, rfl, encodeByte_fixed_bits 2 d s1 s2⟩

theorem FixedBits.mov (d s1 s2 : Reg) : FixedBits.Statement (.mov d s1 s2) :=
  ⟨_, _, rfl, encodeByte_fixed_bits 3 d s1 s2⟩

theorem FixedBits.aluAdd (a b : Byte) : FixedBits.Statement (.aluAdd a b) :=
  ⟨_, _, rfl, (by decide : ((0 : Byte).toNat &&& 0x7) = 0)⟩

theorem FixedBits.aluSub (a b : Byte) : FixedBits.Statement (.aluSub a b) :=
  ⟨_, _, rfl, (by decide : ((1 : Byte).toNat &&& 0x7) = 1)⟩

theorem FixedBits.aluMul (a b : Byte) : FixedBits.Statement (.aluMul a b) :=
  ⟨_, _, rfl, (by decide : ((2 : Byte).toNat &&& 0x7) = 2)⟩

theorem FixedBits.aluDiv (a b : Byte) : FixedBits.Statement (.aluDiv a b) :=
  ⟨_, _, rfl, (by decide : ((3 : Byte).toNat &&& 0x7) = 3)⟩

theorem FixedBits.aluFadd (a b : Byte) : FixedBits.Statement (.aluFadd a b) :=
  ⟨_, _, rfl, (by decide : ((4 : Byte).toNat &&& 0x7) = 4)⟩

theorem FixedBits.aluFmul (a b : Byte) : FixedBits.Statement (.aluFmul a b) :=
  ⟨_, _, rfl, (by decide : ((5 : Byte).toNat &&& 0x7) = 5)⟩

theorem FixedBits.aluNop6 (a b : Byte) : FixedBits.Statement (.aluNop6 a b) :=
  ⟨_, _, rfl, (by decide : ((6 : Byte).toNat &&& 0x7) = 6)⟩

theorem FixedBits.aluNop7 (a b : Byte) : FixedBits.Statement (.aluNop7 a b) :=
  ⟨_, _, rfl, (by decide : ((7 : Byte).toNat &&& 0x7) = 7)⟩

end Sys2Proof.Laws
end

