-- ==== Sys2Proof/Tests/Slice0.lean ====
section
/-! SUPPORT. The model's own tests. The expected values are those of 95_test_vectors.md, 45_alu.md R144, 47_control_cpu.md and
30_encoding.md, or computed by hand from the rule a comment names. The last part shows, for each statement that has hypotheses, a
state and operands that meet them, at the ends of the ranges they name. -/

namespace Sys2Proof.Tests

open Sys2Proof Sys2Proof.Machine

/-! ## WellFormed: each check refuses an ill-formed term (R19: only R0 to R3 can be named) -/

theorem test_wf_add_dst : (Instr.add 4 0 0).wellFormed = false := by decide
theorem test_wf_add_src1 : (Instr.add 0 5 0).wellFormed = false := by decide
theorem test_wf_add_src2 : (Instr.add 0 0 7).wellFormed = false := by decide
theorem test_wf_sub_dst : (Instr.sub 7 0 0).wellFormed = false := by decide
theorem test_wf_sub_src1 : (Instr.sub 0 4 0).wellFormed = false := by decide
theorem test_wf_sub_src2 : (Instr.sub 0 0 6).wellFormed = false := by decide
theorem test_wf_mul_dst : (Instr.mul 6 1 2).wellFormed = false := by decide
theorem test_wf_mul_src1 : (Instr.mul 1 4 2).wellFormed = false := by decide
theorem test_wf_mul_src2 : (Instr.mul 1 2 4).wellFormed = false := by decide
theorem test_wf_mov_dst : (Instr.mov 4 3 3).wellFormed = false := by decide
theorem test_wf_mov_src1 : (Instr.mov 3 4 3).wellFormed = false := by decide
theorem test_wf_mov_src2 : (Instr.mov 3 3 4).wellFormed = false := by decide
theorem test_wf_accepts : (Instr.mov 3 3 3).wellFormed = true ∧ (Instr.aluNop7 0xFF 0xFF).wellFormed = true := by decide

/-! ## Decoding: words written out from 30_encoding.md (the bytes are those of 95_test_vectors.md 2.10 and 2.11) -/

theorem test_decode_add : decodeByte 0b00100001 = .add 2 0 1 ∧ decodeByte 0b00011011 = .add 1 2 3 := by decide
theorem test_decode_sub : decodeByte 0b01111000 = .sub 3 2 0 ∧ decodeByte 0b01000000 = .sub 0 0 0 := by decide
theorem test_decode_mul : decodeByte 0b10001111 = .mul 0 3 3 ∧ decodeByte 0b10000001 = .mul 0 0 1 := by decide
theorem test_decode_mov : decodeByte 0b11100100 = .mov 2 1 0 ∧ decodeByte 0b11111111 = .mov 3 3 3 := by decide
theorem test_decode_alu_add : decodeSelect 0b000 1 2 = .aluAdd 1 2 := by decide
theorem test_decode_alu_sub : decodeSelect 0b001 1 2 = .aluSub 1 2 := by decide
theorem test_decode_alu_mul : decodeSelect 0b010 1 2 = .aluMul 1 2 := by decide
theorem test_decode_alu_div : decodeSelect 0b011 1 2 = .aluDiv 1 2 := by decide
theorem test_decode_alu_fadd : decodeSelect 0b100 1 2 = .aluFadd 1 2 := by decide
theorem test_decode_alu_fmul : decodeSelect 0b101 1 2 = .aluFmul 1 2 := by decide
theorem test_decode_alu_nop6 : decodeSelect 0b110 1 2 = .aluNop6 1 2 := by decide
theorem test_decode_alu_nop7 : decodeSelect 0b111 1 2 = .aluNop7 1 2 := by decide
theorem test_decode_refusals :
    decode .i8 [] = .error .missingByte ∧ decode .alu3 [7, 1] = .error .missingByte ∧
      decode .alu3 [8, 1, 2] = .error .selectTooWide ∧ decode .alu3 [7, 1, 2, 9] = .ok (.aluNop7 1 2, [9]) := by decide
theorem test_encode : encode (.add 2 0 1) = [0x21] ∧ encode (.mov 1 0 1) = [0xD1] ∧ encode (.aluDiv 20 6) = [3, 20, 6] := by
  decide
theorem test_table_words :
    decodeTableWord 8 0x78 = some (.sub 3 2 0) ∧ decodeTableWord 3 5 = some (.aluFmul 0 0) ∧
      decodeTableWord 24 0x061403 = some (.aluDiv 0x14 0x06) ∧ decodeTableWord 8 256 = none ∧ decodeTableWord 16 0 = none := by
  decide

/-! ## States -/

/-- R0 and R1 written by the host after construction, all flags as given. -/
def seeded (r0 r1 : Byte) (f : Flags) : State :=
  { State.reset with
    x := (State.reset.x.set 0 r0).set 1 r1
    alu := { result := 0, flags := f } }

/-- Flags written C Z V S. -/
def flags (c z v s : Bit) : Flags := { carry := c, zero := z, overflow := v, sign := s }

/-- What a test looks at after an instruction: a register, the result, the flags, the data bus. -/
def seen (r : Reg) : Host.Outcome State Fault Refusal → Option (Byte × Wide × Flags × DataBus)
  | .next t => some (t.reg r, t.alu.result, t.alu.flags, t.dbus)
  | .fault f => nomatch f
  | .refused _ => none

/-- What a test looks at after an ALU operation. -/
def seenAlu : Host.Outcome State Fault Refusal → Option (Wide × Flags)
  | .next t => some (t.alu.result, t.alu.flags)
  | .fault f => nomatch f
  | .refused _ => none

/-! ## The four instructions (95_test_vectors.md 2.11 and program B) -/

theorem test_add_carry_zero_overflow :
    seen 3 (exec (.add 3 0 1) (seeded 0x80 0x80 (flags false false false false))) =
      some (0x00, 0x0000, flags true true true false, { value := 0, source := .alu, destination := .reg 3 }) := by decide
theorem test_add_in_place :
    seen 0 (exec (.add 0 0 1) (seeded 200 100 (flags false false true false))) =
      some (0x2C, 0x002C, flags true false false false, { value := 44, source := .alu, destination := .reg 0 }) := by decide
theorem test_sub_borrow :
    seen 2 (exec (.sub 2 0 1) (seeded 0 1 (flags true false false false))) =
      some (0xFF, 0x00FF, flags false false false true, { value := 255, source := .alu, destination := .reg 2 }) := by decide
theorem test_sub_keeps_overflow :
    seen 3 (exec (.sub 3 3 3) (seeded 0x7F 1 (flags false false true true))) =
      some (0x00, 0x0000, flags true true true false, { value := 0, source := .alu, destination := .reg 3 }) := by decide
theorem test_mul_high_byte :
    seen 2 (exec (.mul 2 0 1) (seeded 100 3 (flags true false false false))) =
      some (0x2C, 0x012C, flags false false false false, { value := 44, source := .alu, destination := .reg 2 }) := by decide
theorem test_mul_truncates :
    seen 0 (exec (.mul 0 0 1) (seeded 255 255 (flags false false false false))) =
      some (0x01, 0x0701, flags false false false false, { value := 1, source := .alu, destination := .reg 0 }) := by decide
theorem test_mov_divides :
    seen 2 (exec (.mov 2 0 1) (seeded 100 7 (flags true true false true))) =
      some (0x0E, 0x020E, flags false false false false, { value := 14, source := .alu, destination := .reg 2 }) := by decide
theorem test_mov_by_zero :
    seen 0 (exec (.mov 0 0 1) (seeded 100 0 (flags false false false false))) =
      some (0x00, 0x6400, flags true true false false, { value := 0, source := .alu, destination := .reg 0 }) := by decide

/-! ## The eight ALU operations (45_alu.md R144, the row named in each test) -/

theorem test_alu_add_row3 :
    seenAlu (exec (.aluAdd 0x7F 0x01) (seeded 0 0 (flags true true false false))) =
      some (0x0080, flags false false true true) := by decide
theorem test_alu_add_row16 :
    seenAlu (exec (.aluAdd 0x01 0x01) (seeded 0 0 (flags false true true false))) =
      some (0x0002, flags false false false false) := by decide
theorem test_alu_sub_row4 :
    seenAlu (exec (.aluSub 0x05 0x03) (seeded 0 0 (flags false false true true))) =
      some (0x0002, flags true false true false) := by decide
theorem test_alu_sub_row5 :
    seenAlu (exec (.aluSub 0x03 0x05) (seeded 0 0 (flags true false true false))) =
      some (0x00FE, flags false false true true) := by decide
theorem test_alu_mul_row7 :
    seenAlu (exec (.aluMul 0xFF 0xFF) (seeded 0 0 (flags true true true false))) =
      some (0x0701, flags false false true false) := by decide
theorem test_alu_mul_row8 :
    seenAlu (exec (.aluMul 0x10 0x10) (seeded 0 0 (flags false false true false))) =
      some (0x0000, flags false true true false) := by decide
theorem test_alu_div_row9 :
    seenAlu (exec (.aluDiv 0x14 0x06) (seeded 0 0 (flags false true true false))) =
      some (0x0203, flags false false true false) := by decide
theorem test_alu_div_row10 :
    seenAlu (exec (.aluDiv 0x4D 0x00) (seeded 0 0 (flags false false true false))) =
      some (0x4D00, flags true true true false) := by decide
theorem test_alu_fadd_row12 :
    seenAlu (exec (.aluFadd 0x38 0x30) (seeded 0 0 (flags false false true true))) =
      some (0x0044, flags false false true false) := by decide +kernel
theorem test_alu_fadd_row13 :
    seenAlu (exec (.aluFadd 0x10 0x98) (seeded 0 0 (flags false false true false))) =
      some (0x0080, flags false false true true) := by decide +kernel
theorem test_alu_fmul_row14 :
    seenAlu (exec (.aluFmul 0x10 0x10) (seeded 0 0 (flags false false true true))) =
      some (0x0000, flags false true true false) := by decide +kernel
theorem test_alu_fmul_signs :
    seenAlu (exec (.aluFmul 0xB8 0x38) (seeded 0 0 (flags true false false false))) =
      some (0x00C2, flags false false false true) := by decide +kernel
theorem test_alu_nop6_keeps :
    seenAlu (exec (.aluNop6 0x12 0x34) { seeded 0 0 (flags true false true false) with
      alu := { result := 0x6400, flags := flags true false true false } }) = some (0x6400, flags true true true false) := by
  decide
theorem test_alu_nop7_keeps :
    seenAlu (exec (.aluNop7 0xAB 0xCD) { seeded 0 0 (flags true false true false) with
      alu := { result := 0x0180, flags := flags false true false false } }) = some (0x0180, flags false false false true) := by
  decide

/-! ## The host's operations -/

/-- The state right before one call is made, after construction. -/
def calling (c : HostCall) : State := { State.reset with calls := [c] }

/-- What the one call returns. -/
def returned (c : HostCall) : Option Response :=
  match step (calling c) with
  | .next t => some t.response
  | .fault f => nomatch f
  | .refused _ => none

/-- 95_test_vectors.md 1.8: the record returned by ADD R2, R0, R1 with R0 = 10 and R1 = 20. -/
theorem test_execute_returns :
    (match step { seeded 10 20 (flags false false false false) with calls := [.executeInstruction 0x21] } with
      | .next t => some t.response
      | .fault f => nomatch f
      | .refused _ => none) =
    some (.executed
      { result16 := 30, resultLow := 30, flags := flags false false false false, opcode := 0, dst := 2, src1 := 0, src2 := 1,
        opName := .add, cycles := 1, pc := 1 }) := by decide

/-- 95_test_vectors.md 1.10. -/
theorem test_register_write_refused : returned (.op (.registerWrite 8 5)) = some (.ok false) := by decide

/-- 95_test_vectors.md, program D, row 4: the value is masked and the bus records it as given. -/
theorem test_load_memory_masks :
    (match step (calling (.op (.loadMemory 0x10 0x1FF))) with
      | .next t => some (t.memoryRead 0x10, t.dbus.value, t.response)
      | .fault f => nomatch f
      | .refused _ => none) = some (0xFF, 511, .ok true) := by decide

/-- 95_test_vectors.md, program D, row 5. -/
theorem test_read_memory_negative : returned (.op (.readMemory (-1))) = some (.byte 0) := by decide

/-- 95_test_vectors.md 2.2: a set, and both inputs at 1, from construction. -/
theorem test_sr_latch :
    returned (.op (.srLatch 0 true false)) = some (.bits true false) ∧
      returned (.op (.srLatch 0 true true)) = some (.bits false true) := by decide

/-- 95_test_vectors.md 2.2: closed, then transparent, from construction. -/
theorem test_d_latch :
    returned (.op (.dLatch 0 true false)) = some (.bits false true) ∧
      returned (.op (.dLatch 0 true true)) = some (.bits true false) := by decide

/-- 95_test_vectors.md 2.2: (0,0,0) gives difference 1, and select 1 passes `b`. -/
theorem test_composite :
    returned (.op (.oneBitSubtractor false false false)) = some (.bits true false) ∧
      returned (.op (.multiplexer true false true)) = some (.bit false) := by decide

/-- 95_test_vectors.md 1.7. -/
theorem test_float_zero : returned (.op (.fpuCreate (.finite 0))) = some (.encoded 0x00 true false) := by decide +kernel

/-- 95_test_vectors.md 2.7: 21/8 is 0x45. -/
theorem test_parse : returned (.op (.fpuParse 0x45)) = some (.parsed (.finite (21 / 8)) false false) := by decide +kernel

/-! ## Witnesses: what the statements' hypotheses ask can be met -/

/-- Every call right after construction is a state with the invariant whose next call it is, and its step answers a next state. -/
theorem test_calling (c : HostCall) :
    (calling c).inv = true ∧ (calling c).pcTracksCycles = true ∧ (calling c).calls = c :: [] ∧
      ∃ t, step (calling c) = .next t := by
  refine ⟨(by decide : State.reset.inv = true), (by decide : State.reset.pcTracksCycles = true), rfl, ?_⟩
  cases c with
  | executeInstruction b => cases h : decodeByte b <;> exact ⟨_, by simp only [step, calling, performCall, h]; rfl⟩
  | aluExecute sel a b => cases h : decodeSelect sel a b <;> exact ⟨_, by simp only [step, calling, performCall, h]; rfl⟩
  | op o => exact ⟨_, rfl⟩

theorem test_witness_DecodeAfterEncode : (Instr.add 0 0 0).wellFormed = true ∧ (Instr.mov 3 3 3).wellFormed = true := by decide

theorem test_witness_InstructionByteFields :
    (0x3F : Byte).toNat / 64 = 0 ∧ (0x40 : Byte).toNat / 64 = 1 ∧ (0xBF : Byte).toNat / 64 = 2 ∧ (0xC0 : Byte).toNat / 64 = 3 := by
  decide

theorem test_witness_StepRunsDecodedInstruction :
    (calling (.executeInstruction 0xFF)).calls = [.executeInstruction 0xFF] ∧
      decode .i8 [0xFF] = .ok (.mov 3 3 3, []) ∧
      (calling (.aluExecute 7 0 255)).calls = [.aluExecute 7 0 255] ∧
      decode .alu3 [(7 : BitVec 3).setWidth 8, 0, 255] = .ok (.aluNop7 0 255, []) ∧
      (calling (.op .incrementPc)).calls = [.op .incrementPc] ∧ State.reset.calls = [] := by decide

theorem test_witness_FetchWordRunsTableWord :
    decodeTableWord 8 0 = some (.add 0 0 0) ∧ decodeTableWord 8 255 = some (.mov 3 3 3) ∧
      decodeTableWord 3 7 = some (.aluNop7 0 0) ∧ decodeTableWord 24 0xFFFF07 = some (.aluNop7 255 255) := by decide

theorem test_witness_GateOutputRegister :
    (calling (.op (.gate 3 (.and true true)))).inv = true ∧ (GateKind.or, 3) ≠ (GateKind.and, 3) ∧
      (GateKind.and, 2) ≠ (GateKind.and, 3) := by decide

/-- 95_test_vectors.md 2.1: what the host's evaluations return on (0,1), and for NOT on 1. -/
theorem test_gate_calls :
    returned (.op (.gate 0 (.and false true))) = some (.bit false) ∧ returned (.op (.gate 0 (.or false true))) = some (.bit true) ∧
      returned (.op (.gate 0 (.not true))) = some (.bit false) ∧ returned (.op (.gate 0 (.xor false true))) = some (.bit true) ∧
      returned (.op (.gate 0 (.nand false true))) = some (.bit true) ∧
      returned (.op (.gate 0 (.nor false true))) = some (.bit false) := by decide

/-- R68: the output shows at the instance evaluated, of its own gate type, and at no other. -/
theorem test_gate_instance :
    (match step (calling (.op (.gate 2 (.or true false)))) with
      | .next t => some (t.lastOut .or 2, t.lastOut .or 1, t.lastOut .and 2)
      | .fault f => nomatch f
      | .refused _ => none) = some (true, false, false) := by decide

theorem test_witness_GateCallsReturnOutputs :
    (calling (.op (.gate 0 (.and true true)))).inv = true ∧
      (calling (.op (.gate 0 (.and true true)))).calls = [.op (.gate 0 (.and true true))] ∧
      (calling (.op (.gate 0 (.or false true)))).calls = [.op (.gate 0 (.or false true))] ∧
      (calling (.op (.gate 0 (.not false)))).calls = [.op (.gate 0 (.not false))] ∧
      (calling (.op (.gate 0 (.xor true true)))).calls = [.op (.gate 0 (.xor true true))] ∧
      (calling (.op (.gate 0 (.nand true true)))).calls = [.op (.gate 0 (.nand true true))] ∧
      (calling (.op (.gate 0 (.nor false false)))).calls = [.op (.gate 0 (.nor false false))] := by decide

theorem test_witness_latches :
    (calling (.op (.srLatch 0 true true))).inv = true ∧ (calling (.op (.dLatch 5 true false))).inv = true ∧ (4 : Nat) ≠ 5 := by
  decide

theorem test_witness_SubtractorMatchesArithmetic :
    Config.params.subBorrow = .rawCarry ∧ ({ Config.params with subBorrow := .inverted } : Config.Params).subBorrow = .inverted := by
  decide

theorem test_witness_UnitCallsReturnOutputs :
    (calling (.op (.adder 255 1))).calls = [.op (.adder 255 1)] ∧ (calling (.op (.subtractor 0 1))).calls = [.op (.subtractor 0 1)] ∧
      (calling (.op (.multiplier 16 16))).calls = [.op (.multiplier 16 16)] ∧
      (calling (.op (.divider 255 0))).calls = [.op (.divider 255 0)] ∧
      (calling (.op (.halfAdder true true))).calls = [.op (.halfAdder true true)] ∧
      (calling (.op (.fullAdder true true true))).calls = [.op (.fullAdder true true true)] ∧
      (calling (.op (.oneBitSubtractor false false false))).calls = [.op (.oneBitSubtractor false false false)] ∧
      (calling (.op (.multiplexer true false true))).calls = [.op (.multiplexer true false true)] :=
  ⟨rfl, rfl, rfl, rfl, rfl, rfl, rfl, rfl⟩

theorem test_witness_DividerDivides : (1 : Byte) ≠ 0 ∧ (255 : Byte) ≠ 0 ∧ (0 : Byte) = 0 := by decide

theorem test_witness_AluAddOutcome :
    (∀ d x y, Instr.aluSub 0 1 ≠ .add d x y) ∧ (∀ x y, Instr.aluSub 0 1 ≠ .aluAdd x y) ∧
      ∃ t, exec (.aluSub 0 1) State.reset = .next t := ⟨by simp, by simp, _, rfl⟩

theorem test_witness_float_outcomes :
    (fpuParse Config.params 0x10).value = .finite (1 / 4) ∧ (fpuParse Config.params 0xEF).value = .finite (-31 / 2) := by
  decide +kernel

/-- 44_fpu.md R123: where an operand is an infinity and the result is determined. -/
theorem test_float_infinities :
    returned (.op (.fpuAdd 0x70 0x30)) = some (.byte 0x70) ∧ returned (.op (.fpuMultiply 0x70 0xB0)) = some (.byte 0xF0) := by
  decide +kernel

theorem test_witness_determined_floats :
    qxAdd (fpuParse Config.params 0x70).value (fpuParse Config.params 0x30).value = some (.infinite false) ∧
      qxMul (fpuParse Config.params 0x70).value (fpuParse Config.params 0xB0).value = some (.infinite true) := by
  decide +kernel

theorem test_witness_AluUnmappedOutcome :
    (seeded 0 0 (flags true true true false)).alu.flags.zero =
        decide ((seeded 0 0 (flags true true true false)).alu.result.toNat % 256 = 0) ∧
      (seeded 0 0 (flags true true true false)).alu.flags.sign =
        (seeded 0 0 (flags true true true false)).alu.result.getLsbD 7 := by decide

theorem test_witness_AluOperationFrame :
    (Instr.aluDiv 1 0).format = .alu3 ∧ (∃ t, exec (.aluDiv 1 0) State.reset = .next t) ∧
      (∀ a b, Instr.aluDiv 1 0 ≠ .aluFadd a b) ∧ (∀ a b, Instr.aluDiv 1 0 ≠ .aluFmul a b) ∧
      (∀ a b, Instr.aluDiv 1 0 ≠ .aluAdd a b) ∧ (∀ a b, Instr.aluDiv 1 0 ≠ .aluSub a b) ∧
      ∀ a b, Instr.aluDiv 1 0 ≠ .aluMul a b :=
  ⟨rfl, ⟨_, rfl⟩, by simp, by simp, by simp, by simp, by simp⟩

theorem test_witness_InstructionBookkeeping : (Instr.sub 3 0 3).format = .i8 ∧ (Instr.sub 3 0 3).wellFormed = true := by decide

theorem test_witness_InstructionFrame :
    (∃ t, exec (.mov 3 0 1) State.reset = .next t) ∧ Instr.mov 3 0 1 ≠ .add 3 0 1 ∧ (Instr.mov 3 0 1).wellFormed = true ∧
      4 ≤ (4 : Reg).val ∧ 4 ≤ (7 : Reg).val := ⟨⟨_, rfl⟩, by decide⟩

theorem test_witness_ParseMeaning :
    (0x0F : Byte).toNat / 16 % 8 = 0 ∧ (0x80 : Byte).toNat / 16 % 8 = 0 ∧ (0x10 : Byte).toNat / 16 % 8 = 1 ∧
      (0xEF : Byte).toNat / 16 % 8 = 6 ∧ (0x70 : Byte).toNat / 16 % 8 = 7 ∧ (0xFF : Byte).toNat / 16 % 8 = 7 := by decide

theorem test_witness_FloorLogIsUnique :
    (0 : Rat) < 1 / 4 ∧ (2 : Rat) ^ (-2 : Int) ≤ 1 / 4 ∧ (1 / 4 : Rat) < 2 ^ (-2 + 1 : Int) := by norm_num

theorem test_witness_GreedyTruncates : (0 : Rat) ≤ 0 ∧ (0 : Rat) < 1 ∧ (0 : Rat) ≤ 15 / 16 ∧ (15 / 16 : Rat) < 1 := by norm_num

theorem test_witness_EncoderByRange :
    ((1 / 5 : Rat) ≠ 0 ∧ |(1 / 5 : Rat)| < 1 / 4) ∧ (16 : Rat) ≤ |(-16 : Rat)| ∧ (1 / 4 ≤ |(1 / 4 : Rat)| ∧ |(1 / 4 : Rat)| < 16) ∧
      (1 / 4 ≤ |(-159 / 10 : Rat)| ∧ |(-159 / 10 : Rat)| < 16) := by
  norm_num [abs_div, abs_neg]

theorem test_witness_EncoderRoundsTowardZero :
    (1 / 4 ≤ |(3 : Rat)| ∧ |(3 : Rat)| < 16) ∧ (fpuParse Config.params 0x10).value = .finite (1 / 4) ∧
      ((0 : Rat) < 1 / 4 ↔ (0 : Rat) < 3) ∧ |(1 / 4 : Rat)| ≤ |(3 : Rat)| :=
  ⟨by norm_num, by decide +kernel, by norm_num, by norm_num⟩

theorem test_witness_InfinityArithmetic :
    (-31 / 2 : Rat) ≠ 0 ∧ (0x7F : Byte).toNat / 16 % 8 = 7 ∧ (0xF0 : Byte).toNat / 16 % 8 = 7 ∧
      (0x7F : Byte).toNat / 128 ≠ (0xF0 : Byte).toNat / 128 ∧ (0x8A : Byte).toNat / 16 % 8 = 0 := by
  refine ⟨by norm_num, by decide⟩

theorem test_witness_FpuCallsKeepStatus :
    (calling (.op (.fpuParse 0xFF))).calls = [.op (.fpuParse 0xFF)] ∧
      (calling (.op (.fpuCreate (.infinite true)))).calls = [.op (.fpuCreate (.infinite true))] ∧
      (calling (.op (.fpuAdd 0x70 0xF0))).calls = [.op (.fpuAdd 0x70 0xF0)] ∧
      (calling (.op (.fpuMultiply 0x00 0x70))).calls = [.op (.fpuMultiply 0x00 0x70)] := ⟨rfl, rfl, rfl, rfl⟩

theorem test_witness_register_indices :
    (calling (.op (.registerRead (-1)))).calls = [.op (.registerRead (-1))] ∧
      (calling (.op (.registerWrite 7 256))).calls = [.op (.registerWrite 7 256)] ∧ (0 : Int) = ((0 : Reg).val : Int) ∧
      (7 : Int) = ((7 : Reg).val : Int) ∧ ((-1 : Int) < 0 ∨ 7 < (-1 : Int)) ∧ ((8 : Int) < 0 ∨ 7 < (8 : Int)) ∧
      (8 : Int) ≠ ((7 : Reg).val : Int) := by decide

theorem test_witness_memory_addresses :
    (calling (.op (.memoryRead 255))).calls = [.op (.memoryRead 255)] ∧
      (calling (.op (.memoryWrite 256 1))).calls = [.op (.memoryWrite 256 1)] ∧ (calling (.op (.memoryWrite 256 1))).inv = true ∧
      ((0 : Int) ≤ 0 ∧ (0 : Int) ≤ 255) ∧ ((0 : Int) ≤ 255 ∧ (255 : Int) ≤ 255) ∧ ((-1 : Int) < 0 ∨ 255 < (-1 : Int)) ∧
      ((256 : Int) < 0 ∨ 255 < (256 : Int)) ∧ ((255 : Nat) : Int) ≠ 256 := by decide

theorem test_witness_MemoryCallsRecordOnBuses :
    (calling (.op (.loadMemory 255 (-1)))).inv = true ∧
      (calling (.op (.loadMemory 255 (-1)))).calls = [.op (.loadMemory 255 (-1))] ∧
      (calling (.op (.readMemory (-1)))).calls = [.op (.readMemory (-1))] ∧
      (calling (.op (.dataBusTransfer 511 .host .mem))).calls = [.op (.dataBusTransfer 511 .host .mem)] ∧
      (calling (.op (.addressBusSet 320 .host))).calls = [.op (.addressBusSet 320 .host)] := by decide

theorem test_witness_RangeReadAndSnapshot :
    (calling (.op (.memoryReadRange 255 3))).calls = [.op (.memoryReadRange 255 3)] ∧
      (calling (.op (.snapshot (-1) 2))).calls = [.op (.snapshot (-1) 2)] := by decide

theorem test_witness_OnlyHostWrites :
    (HostCall.executeInstruction 0xFF).writesMemory = false ∧ (HostCall.executeInstruction 0xFF).writesUpperRegisters = false ∧
      ∃ t, step (calling (.executeInstruction 0xFF)) = .next t := ⟨rfl, rfl, _, rfl⟩

theorem test_witness_BusesDecideNothing :
    ∀ c, (calling (.op .incrementPc)).calls.head? = some c → c.isSnapshot = false := by
  intro c h
  simp [calling] at h
  rw [← h]
  rfl

theorem test_witness_BusesDecideNothing_transfer :
    (calling (.op (.dataBusTransfer (-1) .alu .none))).calls = [.op (.dataBusTransfer (-1) .alu .none)] := rfl

theorem test_witness_control_calls :
    (calling (.op (.controlDecode 0xE4))).calls = [.op (.controlDecode 0xE4)] ∧
      (calling (.op .incrementPc)).calls = List.replicate 1 (.op .incrementPc) ++ [] := by decide

theorem test_witness_CycleCounterLaw :
    (HostCall.executeInstruction 0).isInstruction = true ∧ (HostCall.aluExecute 0 0 0).isInstruction = false ∧
      HostCall.aluExecute 0 0 0 ≠ .op .resetCall ∧ HostCall.aluExecute 0 0 0 ≠ .op .incrementPc ∧
      State.reset.pcTracksCycles = true ∧ ∃ t, step (calling (.aluExecute 0 0 0)) = .next t :=
  ⟨rfl, rfl, by decide, by decide, by decide, _, rfl⟩

theorem test_witness_reset_calls : (calling (.op .resetCall)).calls = [.op .resetCall] := rfl

theorem test_witness_StepKeepsInvariant :
    State.reset.inv = true ∧ ∃ t, step (calling (.executeInstruction 0x21)) = .next t := ⟨by decide, _, rfl⟩

end Sys2Proof.Tests
end

section
/-! Direct reads of memory through the host (20_memory.md section 2, R32). -/

namespace Sys2Proof.Machine

theorem isAddress_iff (a : Int) : isAddress a = true ↔ 0 ≤ a ∧ a ≤ 255 := by
  simp [isAddress]

theorem State.memoryRead_inside (s : State) (a : Int) (h : 0 ≤ a ∧ a ≤ 255) :
    s.memoryRead a = Memory.read s.mem a.toNat :=
  if_pos ((isAddress_iff a).2 h)

theorem State.memoryRead_outside (s : State) (a : Int) (h : a < 0 ∨ 255 < a) : s.memoryRead a = 0 :=
  if_neg fun ha => by
    obtain ⟨hlow, hhigh⟩ := (isAddress_iff a).1 ha
    omega

/-- A step on an operation of the host: the call is taken off the list and performed. -/
theorem step_op (s : State) (o : HostOp) (rest : List HostCall) (h : s.calls = .op o :: rest) :
    step s = .next (hostOp o { s with calls := rest }) := by
  rw [step_cons s _ rest h]
  rfl

/-- Settles O41: the byte returned is `State.memoryRead`, which looks at `mem` only, and responding is the only change. -/
theorem memoryReadDirect : Obligations.MemoryReadDirect := by
  intro s a rest h
  refine ⟨s.memoryRead a, ?next, ?inside, ?outside⟩
  case next => exact step_op s _ rest h
  case inside => exact fun hlow hhigh => s.memoryRead_inside a ⟨hlow, hhigh⟩
  case outside => exact s.memoryRead_outside a

end Sys2Proof.Machine
end

section
/-! The instruction byte (30_encoding.md section 1, R46 to R48): its four fields as arithmetic on the byte, and the instruction
that each opcode selects. -/

namespace Sys2Proof

theorem fieldOpcode_toNat (b : Byte) : (fieldOpcode b).toNat = b.toNat / 64 := by
  have hb : b.toNat < 256 := b.isLt
  simp only [fieldOpcode, BitVec.extractLsb'_toNat, Nat.shiftRight_eq_div_pow]
  omega

@[simp] theorem regOfField_fieldDst_val (b : Byte) : (regOfField (fieldDst b)).val = b.toNat / 16 % 4 := by
  simp [regOfField, fieldDst, Nat.shiftRight_eq_div_pow]

@[simp] theorem regOfField_fieldSrc1_val (b : Byte) : (regOfField (fieldSrc1 b)).val = b.toNat / 4 % 4 := by
  simp [regOfField, fieldSrc1, Nat.shiftRight_eq_div_pow]

@[simp] theorem regOfField_fieldSrc2_val (b : Byte) : (regOfField (fieldSrc2 b)).val = b.toNat % 4 := by
  simp [regOfField, fieldSrc2]

/-- R47 as one function of the opcode: the constructor that the opcode number selects. -/
def instrOfOpcode : Nat → Reg → Reg → Reg → Instr
  | 0 => .add
  | 1 => .sub
  | 2 => .mul
  | _ => .mov

theorem decodeByte_eq_instrOfOpcode (b : Byte) :
    decodeByte b =
      instrOfOpcode (b.toNat / 64) (regOfField (fieldDst b)) (regOfField (fieldSrc1 b)) (regOfField (fieldSrc2 b)) := by
  rw [← fieldOpcode_toNat]
  unfold decodeByte
  split <;> simp_all [instrOfOpcode]

/-- The base-4 digits of a byte's number, opcode first: no bit of the byte is outside the four fields. -/
theorem byte_eq_sum_of_fields (n : Nat) :
    n = 64 * (n / 64) + 16 * (n / 16 % 4) + 4 * (n / 4 % 4) + n % 4 := by
  omega

/-- Settles O3: the registers are those of the decoder's own fields, and each opcode is one case of `instrOfOpcode`. -/
theorem instructionByteFields : Obligations.InstructionByteFields := by
  intro b
  refine ⟨regOfField (fieldDst b), regOfField (fieldSrc1 b), regOfField (fieldSrc2 b), regOfField_fieldDst_val b,
    regOfField_fieldSrc1_val b, regOfField_fieldSrc2_val b, ?add, ?sub, ?mul, ?mov, ?opcodeBound, ?allBits⟩
  case add => intro h; rw [decodeByte_eq_instrOfOpcode, h]; rfl
  case sub => intro h; rw [decodeByte_eq_instrOfOpcode, h]; rfl
  case mul => intro h; rw [decodeByte_eq_instrOfOpcode, h]; rfl
  case mov => intro h; rw [decodeByte_eq_instrOfOpcode, h]; rfl
  case opcodeBound => exact Nat.div_lt_of_lt_mul b.isLt
  case allBits => simpa using byte_eq_sum_of_fields b.toNat

end Sys2Proof
end

section
/-! The ripple-carry adder (42_adder_subtractor.md section 1, R85 to R87): its sum and carry out are the two base-256 digits of
the exact sum, and its overflow rule on sign bits is the range check on the signed sum. -/

namespace Sys2Proof.Machine

/-- The sign bit by magnitude: bit 7 is set just in the upper half of the bytes. -/
theorem signBit_eq_decide (v : Byte) : v.getLsbD 7 = decide (128 ≤ v.toNat) := by
  rw [← BitVec.msb_eq_getLsbD_last, BitVec.msb_eq_decide]

theorem sval_of_lt (v : Byte) (h : v.toNat < 128) : sval v = v.toNat := by
  simp only [sval, signBit_eq_decide, Nat.not_le.2 h, decide_false]
  simp

theorem sval_of_ge (v : Byte) (h : 128 ≤ v.toNat) : sval v = (v.toNat : Int) - 256 := by
  simp only [sval, signBit_eq_decide, h, decide_true, if_true]

theorem addOverflow_iff (a b sum : Byte) :
    addOverflow a b sum = true ↔
      (128 ≤ a.toNat ↔ 128 ≤ b.toNat) ∧ ¬ (128 ≤ sum.toNat ↔ 128 ≤ a.toNat) := by
  simp only [addOverflow, signBit_eq_decide]
  simp

/-- R86 read as arithmetic: on the wrapped sum, the sign-bit rule says just when the signed sum leaves the signed range.
Operands of opposite signs never leave it; two of one sign leave it exactly when the wrap flips the sign. -/
theorem addOverflow_iff_sval_add_outside (a b sum : Byte) (hsum : sum.toNat = (a.toNat + b.toNat) % 256) :
    addOverflow a b sum = true ↔ sval a + sval b < -128 ∨ 127 < sval a + sval b := by
  have ha : a.toNat < 256 := a.isLt
  have hb : b.toNat < 256 := b.isLt
  rw [addOverflow_iff, hsum]
  rcases Nat.lt_or_ge a.toNat 128 with hsa | hsa <;> rcases Nat.lt_or_ge b.toNat 128 with hsb | hsb
  case inl.inl => rw [sval_of_lt a hsa, sval_of_lt b hsb]; omega
  case inl.inr => rw [sval_of_lt a hsa, sval_of_ge b hsb]; omega
  case inr.inl => rw [sval_of_ge a hsa, sval_of_lt b hsb]; omega
  case inr.inr => rw [sval_of_ge a hsa, sval_of_ge b hsb]; omega

/-- The eight FullAdders lose nothing: the carry chain's exact sum, at the width of a Byte. -/
theorem rca8_val (a b : Byte) :
    (rca8 a b).sum.toNat + 256 * bitVal (rca8 a b).carryOut = a.toNat + b.toNat := by
  have hlen : (bitsOf a).length = (bitsOf b).length := by rw [bitsOf_length, bitsOf_length]
  have hsumLen : (rippleCarry (bitsOf a) (bitsOf b) false).1.length = 8 :=
    (rippleCarry_length _ _ _ hlen).trans (bitsOf_length a)
  have hchain := rippleCarry_val (bitsOf a) (bitsOf b) false hlen
  rw [bitsOf_length, bitsVal_bitsOf, bitsVal_bitsOf, ← byteOfBits_toNat _ hsumLen] at hchain
  exact hchain

theorem rca8_sum_toNat (a b : Byte) : (rca8 a b).sum.toNat = (a.toNat + b.toNat) % 256 := by
  rw [← rca8_val, Nat.add_mul_mod_self_left, Nat.mod_eq_of_lt (rca8 a b).sum.isLt]

theorem rca8_carryOut_iff (a b : Byte) : (rca8 a b).carryOut = true ↔ 256 ≤ a.toNat + b.toNat := by
  have hsum : (rca8 a b).sum.toNat < 256 := (rca8 a b).sum.isLt
  rw [← rca8_val]
  cases (rca8 a b).carryOut with
  | false => simpa [bitVal] using hsum
  | true => simp [bitVal]

theorem rca8_overflow_iff (a b : Byte) :
    (rca8 a b).overflow = true ↔ sval a + sval b < -128 ∨ 127 < sval a + sval b :=
  addOverflow_iff_sval_add_outside a b _ (rca8_sum_toNat a b)

/-- Settles O11: the carry chain's exact sum gives the first, second and fourth parts; the third is R86 on that sum. -/
theorem adderMatchesArithmetic : Obligations.AdderMatchesArithmetic := by
  intro a b
  exact ⟨rca8_sum_toNat a b, rca8_carryOut_iff a b, rca8_overflow_iff a b, (rca8_val a b).symm⟩

end Sys2Proof.Machine
end

section
/-! Direct reads of the register file through the host (46_regfile_memory_buses.md section 1, R145). -/

namespace Sys2Proof.Machine

theorem regOfIndex_outside (i : Int) (h : i < 0 ∨ 7 < i) : regOfIndex i = none :=
  dif_neg (by omega)

@[simp] theorem State.registerRead_reg (s : State) (r : Reg) : s.registerRead (r.val : Int) = s.reg r := by
  rw [State.registerRead, regOfIndex_reg]

theorem State.registerRead_outside (s : State) (i : Int) (h : i < 0 ∨ 7 < i) : s.registerRead i = 0 := by
  rw [State.registerRead, regOfIndex_outside i h]

/-- Settles O39: the byte returned is `State.registerRead`, which looks at `x` only, and responding is the only change. -/
theorem registerReadAnyIndex : Obligations.RegisterReadAnyIndex := by
  intro s i rest h
  refine ⟨s.registerRead i, ?next, ?inside, ?outside⟩
  case next => exact step_op s _ rest h
  case inside => rintro r rfl; exact s.registerRead_reg r
  case outside => exact s.registerRead_outside i

end Sys2Proof.Machine
end

section
/-! Nothing raises (60_exceptions.md section 1, R190): every instruction, every call of the host and every step answers a next
state. -/

namespace Sys2Proof.Machine

/-- The next state of each instruction is the record that its law in Laws/Exec.lean states. -/
theorem exec_completes (i : Instr) (s : State) : Completes (exec i s) := by
  cases i with
  | add d s1 s2 => exact ⟨_, exec_add_eq d s1 s2 s⟩
  | sub d s1 s2 => exact ⟨_, exec_sub_eq d s1 s2 s⟩
  | mul d s1 s2 => exact ⟨_, exec_mul_eq d s1 s2 s⟩
  | mov d s1 s2 => exact ⟨_, exec_mov_eq d s1 s2 s⟩
  | aluAdd a b => exact ⟨_, exec_aluAdd_eq a b s⟩
  | aluSub a b => exact ⟨_, exec_aluSub_eq a b s⟩
  | aluMul a b => exact ⟨_, exec_aluMul_eq a b s⟩
  | aluDiv a b => exact ⟨_, exec_aluDiv_eq a b s⟩
  | aluFadd a b => exact ⟨_, exec_aluFadd_eq a b s⟩
  | aluFmul a b => exact ⟨_, exec_aluFmul_eq a b s⟩
  | aluNop6 a b => exact ⟨_, exec_aluNop6_eq a b s⟩
  | aluNop7 a b => exact ⟨_, exec_aluNop7_eq a b s⟩

/-- Both calls that run an instruction run one that the decoder gives, and the decoder gives one for every byte and select. -/
theorem performCall_completes (c : HostCall) (s : State) : Completes (performCall c s) := by
  cases c with
  | executeInstruction b => exact exec_completes (decodeByte b) s
  | aluExecute sel a b => exact exec_completes (decodeSelect sel a b) s
  | op o => exact ⟨hostOp o s, rfl⟩

theorem step_completes (s : State) : Completes (step s) := by
  cases hcalls : s.calls with
  | nil => exact ⟨s, step_nil s hcalls⟩
  | cons c rest =>
    rw [step_cons s c rest hcalls]
    exact performCall_completes c { s with calls := rest }

/-- Settles O55: a step makes one call or none, and every call completes because every instruction does. -/
theorem nothingRaises : Obligations.NothingRaises :=
  ⟨step_completes, exec_completes⟩

end Sys2Proof.Machine
end

section
/-! The encodings (30_encoding.md sections 1, 2 and 4, R45 to R58): the encoder and the decoder are inverse on the well-formed
instructions, and the words of the table are read by that decoder. -/

namespace Sys2Proof

open Machine

/-! ### Format I8 -/

theorem opcode_cases : ∀ o : BitVec 2, o = 0 ∨ o = 1 ∨ o = 2 ∨ o = 3 := by decide

theorem fieldOfReg_toNat (r : Reg) : (fieldOfReg r).toNat = r.val % 4 := by
  simp [fieldOfReg]

theorem encodeByte_toNat (o : BitVec 2) (d s1 s2 : Reg) :
    (encodeByte o d s1 s2).toNat = 64 * o.toNat + 16 * (d.val % 4) + 4 * (s1.val % 4) + s2.val % 4 := by
  have ho : o.toNat < 4 := o.isLt
  simp only [encodeByte, BitVec.toNat_ofNat, fieldOfReg_toNat]
  omega

@[simp] theorem fieldOpcode_encodeByte (o : BitVec 2) (d s1 s2 : Reg) : fieldOpcode (encodeByte o d s1 s2) = o := by
  apply BitVec.eq_of_toNat_eq
  rw [fieldOpcode_toNat, encodeByte_toNat]
  omega

/-- R19: the register of a 2-bit field is one of R0 to R3. -/
@[simp] theorem nameable_regOfField (f : BitVec 2) : Reg.nameable (regOfField f) = true :=
  decide_eq_true f.isLt

@[simp] theorem regOfField_fieldDst_encodeByte (o : BitVec 2) (d s1 s2 : Reg) (hd : Reg.nameable d = true) :
    regOfField (fieldDst (encodeByte o d s1 s2)) = d := by
  have hd : d.val < 4 := of_decide_eq_true hd
  apply Fin.ext
  rw [regOfField_fieldDst_val, encodeByte_toNat]
  omega

@[simp] theorem regOfField_fieldSrc1_encodeByte (o : BitVec 2) (d s1 s2 : Reg) (h1 : Reg.nameable s1 = true) :
    regOfField (fieldSrc1 (encodeByte o d s1 s2)) = s1 := by
  have h1 : s1.val < 4 := of_decide_eq_true h1
  apply Fin.ext
  rw [regOfField_fieldSrc1_val, encodeByte_toNat]
  omega

@[simp] theorem regOfField_fieldSrc2_encodeByte (o : BitVec 2) (d s1 s2 : Reg) (h2 : Reg.nameable s2 = true) :
    regOfField (fieldSrc2 (encodeByte o d s1 s2)) = s2 := by
  have h2 : s2.val < 4 := of_decide_eq_true h2
  apply Fin.ext
  rw [regOfField_fieldSrc2_val, encodeByte_toNat]
  omega

/-- R55 read back by R47: the fields of the encoded byte are the ones it was made of. -/
theorem decodeByte_encodeByte (o : BitVec 2) (d s1 s2 : Reg)
    (h : (Reg.nameable d && Reg.nameable s1 && Reg.nameable s2) = true) :
    decodeByte (encodeByte o d s1 s2) = instrOfOpcode o.toNat d s1 s2 := by
  simp only [Bool.and_eq_true] at h
  obtain ⟨⟨hd, h1⟩, h2⟩ := h
  rw [decodeByte_eq_instrOfOpcode, ← fieldOpcode_toNat, fieldOpcode_encodeByte, regOfField_fieldDst_encodeByte _ _ _ _ hd,
    regOfField_fieldSrc1_encodeByte _ _ _ _ h1, regOfField_fieldSrc2_encodeByte _ _ _ _ h2]

theorem encodeByte_fields (b : Byte) :
    encodeByte (fieldOpcode b) (regOfField (fieldDst b)) (regOfField (fieldSrc1 b)) (regOfField (fieldSrc2 b)) = b := by
  apply BitVec.eq_of_toNat_eq
  rw [encodeByte_toNat, fieldOpcode_toNat, regOfField_fieldDst_val, regOfField_fieldSrc1_val, regOfField_fieldSrc2_val]
  omega

theorem encode_instrOfOpcode (o : BitVec 2) (d s1 s2 : Reg) :
    encode (instrOfOpcode o.toNat d s1 s2) = [encodeByte o d s1 s2] := by
  rcases opcode_cases o with rfl | rfl | rfl | rfl <;> rfl

theorem format_instrOfOpcode (o : BitVec 2) (d s1 s2 : Reg) : (instrOfOpcode o.toNat d s1 s2).format = .i8 := by
  rcases opcode_cases o with rfl | rfl | rfl | rfl <;> rfl

theorem wellFormed_instrOfOpcode (o : BitVec 2) (d s1 s2 : Reg) :
    (instrOfOpcode o.toNat d s1 s2).wellFormed = (Reg.nameable d && Reg.nameable s1 && Reg.nameable s2) := by
  rcases opcode_cases o with rfl | rfl | rfl | rfl <;> rfl

theorem encode_decodeByte (b : Byte) : encode (decodeByte b) = [b] := by
  rw [decodeByte_eq_instrOfOpcode, ← fieldOpcode_toNat, encode_instrOfOpcode, encodeByte_fields]

theorem format_decodeByte (b : Byte) : (decodeByte b).format = .i8 := by
  rw [decodeByte_eq_instrOfOpcode, ← fieldOpcode_toNat, format_instrOfOpcode]

theorem wellFormed_decodeByte (b : Byte) : (decodeByte b).wellFormed = true := by
  rw [decodeByte_eq_instrOfOpcode, ← fieldOpcode_toNat, wellFormed_instrOfOpcode]
  simp

/-! ### Format ALU3 -/

theorem select_cases : ∀ sel : BitVec 3,
    sel = 0 ∨ sel = 1 ∨ sel = 2 ∨ sel = 3 ∨ sel = 4 ∨ sel = 5 ∨ sel = 6 ∨ sel = 7 := by decide

theorem encode_decodeSelect (sel : BitVec 3) (a b : Byte) : encode (decodeSelect sel a b) = [sel.setWidth 8, a, b] := by
  rcases select_cases sel with rfl | rfl | rfl | rfl | rfl | rfl | rfl | rfl <;> rfl

theorem format_decodeSelect (sel : BitVec 3) (a b : Byte) : (decodeSelect sel a b).format = .alu3 := by
  rcases select_cases sel with rfl | rfl | rfl | rfl | rfl | rfl | rfl | rfl <;> rfl

theorem wellFormed_decodeSelect (sel : BitVec 3) (a b : Byte) : (decodeSelect sel a b).wellFormed = true := by
  rcases select_cases sel with rfl | rfl | rfl | rfl | rfl | rfl | rfl | rfl <;> rfl

/-! ### The decoder, one equation for each shape of its input -/

theorem decode_i8_cons (b : Byte) (rest : List Byte) : decode .i8 (b :: rest) = .ok (decodeByte b, rest) := rfl

theorem decode_alu3_of_lt (sel a b : Byte) (rest : List Byte) (h : sel.toNat < 8) :
    decode .alu3 (sel :: a :: b :: rest) = .ok (decodeSelect (sel.setWidth 3) a b, rest) :=
  if_pos h

theorem decode_alu3_of_ge (sel a b : Byte) (rest : List Byte) (h : 8 ≤ sel.toNat) :
    decode .alu3 (sel :: a :: b :: rest) = .error .selectTooWide :=
  if_neg (Nat.not_lt.2 h)

theorem setWidth_setWidth_of_lt (sel : Byte) (h : sel.toNat < 8) : (sel.setWidth 3).setWidth 8 = sel := by
  apply BitVec.eq_of_toNat_eq
  simp only [BitVec.toNat_setWidth]
  omega

theorem decode_encodeByte (o : BitVec 2) (d s1 s2 : Reg) (rest : List Byte)
    (h : (Reg.nameable d && Reg.nameable s1 && Reg.nameable s2) = true) :
    decode .i8 (encodeByte o d s1 s2 :: rest) = .ok (instrOfOpcode o.toNat d s1 s2, rest) := by
  rw [decode_i8_cons, decodeByte_encodeByte o d s1 s2 h]

/-- Settles O1: an I8 byte's fields are read back (`decodeByte_encodeByte`), an ALU operation's select is one of the eight. -/
theorem decodeAfterEncode : Obligations.DecodeAfterEncode := by
  intro i rest hwf
  cases i with
  | add d s1 s2 => exact decode_encodeByte 0 d s1 s2 rest hwf
  | sub d s1 s2 => exact decode_encodeByte 1 d s1 s2 rest hwf
  | mul d s1 s2 => exact decode_encodeByte 2 d s1 s2 rest hwf
  | mov d s1 s2 => exact decode_encodeByte 3 d s1 s2 rest hwf
  | aluAdd a b => exact decode_alu3_of_lt 0 a b rest (by decide)
  | aluSub a b => exact decode_alu3_of_lt 1 a b rest (by decide)
  | aluMul a b => exact decode_alu3_of_lt 2 a b rest (by decide)
  | aluDiv a b => exact decode_alu3_of_lt 3 a b rest (by decide)
  | aluFadd a b => exact decode_alu3_of_lt 4 a b rest (by decide)
  | aluFmul a b => exact decode_alu3_of_lt 5 a b rest (by decide)
  | aluNop6 a b => exact decode_alu3_of_lt 6 a b rest (by decide)
  | aluNop7 a b => exact decode_alu3_of_lt 7 a b rest (by decide)

/-- Settles O2: along the decoder's own cases; each accepted instruction re-encodes by `encode_decodeByte` or
`encode_decodeSelect`. -/
theorem encodeAfterDecode : Obligations.EncodeAfterDecode := by
  intro f bytes
  match f, bytes with
  | .i8, [] => exact Nat.zero_lt_one
  | .i8, b :: rest =>
    exact ⟨wellFormed_decodeByte b, format_decodeByte b, by rw [encode_decodeByte]; rfl⟩
  | .alu3, [] | .alu3, [_] | .alu3, [_, _] => simp [decode]
  | .alu3, sel :: a :: b :: rest =>
    rcases Nat.lt_or_ge sel.toNat 8 with hsel | hsel
    · rw [decode_alu3_of_lt sel a b rest hsel]
      refine ⟨wellFormed_decodeSelect _ a b, format_decodeSelect _ a b, ?_⟩
      rw [encode_decodeSelect, setWidth_setWidth_of_lt sel hsel]
      rfl
    · rw [decode_alu3_of_ge sel a b rest hsel]
      exact ⟨rfl, Nat.le_add_left 3 _, hsel⟩

/-- Settles O4: the bytes and the selects are written out, so the decoder evaluates to the instructions. -/
theorem sampleWordsDecode : Obligations.SampleWordsDecode :=
  ⟨⟨rfl, rfl, rfl, rfl⟩, fun _ _ => ⟨rfl, rfl, rfl, rfl, rfl, rfl, rfl, rfl⟩⟩

/-! ### Steps on decoded calls -/

theorem step_executeInstruction (s : State) (b : Byte) (rest : List HostCall) (h : s.calls = .executeInstruction b :: rest) :
    step s = exec (decodeByte b) { s with calls := rest } :=
  step_cons s _ rest h

theorem step_aluExecute (s : State) (sel : BitVec 3) (a b : Byte) (rest : List HostCall)
    (h : s.calls = .aluExecute sel a b :: rest) : step s = exec (decodeSelect sel a b) { s with calls := rest } :=
  step_cons s _ rest h

theorem decode_setWidth_select (sel : BitVec 3) (a b : Byte) :
    decode .alu3 [sel.setWidth 8, a, b] = .ok (decodeSelect sel a b, []) := by
  rcases select_cases sel with rfl | rfl | rfl | rfl | rfl | rfl | rfl | rfl <;> rfl

/-- Settles O5: the decoder's answer is the instruction that the call runs, so each clause is the step law of its call. -/
theorem stepRunsDecodedInstruction : Obligations.StepRunsDecodedInstruction := by
  refine ⟨?instruction, ?alu, fun s rest o h => step_op s o rest h, step_nil⟩
  case instruction =>
    intro s rest b i hcalls hdecode
    cases hdecode
    exact ⟨wellFormed_decodeByte b, step_executeInstruction s b rest hcalls⟩
  case alu =>
    intro s rest sel a b i hcalls hdecode
    rw [decode_setWidth_select] at hdecode
    cases hdecode
    exact ⟨wellFormed_decodeSelect sel a b, step_aluExecute s sel a b rest hcalls⟩

/-! ### Words of the table -/

theorem performCall_executeInstruction (b : Byte) (s : State) :
    performCall (.executeInstruction b) s = exec (decodeByte b) s := rfl

theorem performCall_aluExecute (sel : BitVec 3) (a b : Byte) (s : State) :
    performCall (.aluExecute sel a b) s = exec (decodeSelect sel a b) s := rfl

/-- An ALU3 word is read, and has a call, just where its select is below 8 (log 6). -/
theorem decode_tableBytes_alu3 (w : Nat) :
    decode .alu3 (tableBytes w) =
      if w % 256 < 8 then .ok (decodeSelect (BitVec.ofNat 3 w) (BitVec.ofNat 8 (w / 256)) (BitVec.ofNat 8 (w / 65536)), [])
      else .error .selectTooWide := by
  have hsel : (BitVec.ofNat 8 w).setWidth 3 = BitVec.ofNat 3 w := by
    apply BitVec.eq_of_toNat_eq
    simp only [BitVec.toNat_setWidth, BitVec.toNat_ofNat]
    omega
  simp [decode, tableBytes, hsel]

/-- The call of a table word performs the instruction that the decoder reads from it: both make the same two checks. -/
theorem callOfTableWord_of_decodeTableWord (nbits w : Nat) (i : Instr) (h : decodeTableWord nbits w = some i) :
    ∃ c, callOfTableWord nbits w = some c ∧ ∀ s, performCall c s = exec i s := by
  unfold decodeTableWord at h
  unfold callOfTableWord
  cases hformat : tableFormat nbits with
  | none => simp [hformat] at h
  | some f =>
    simp only [hformat] at h ⊢
    by_cases hw : w < 2 ^ nbits
    case neg => simp [hw] at h
    cases f with
    | i8 =>
      simp only [hw, tableBytes, decode_i8_cons, if_true, Option.some.injEq] at h ⊢
      exact ⟨_, rfl, fun s => by rw [performCall_executeInstruction, h]⟩
    | alu3 =>
      simp only [hw, decode_tableBytes_alu3, if_true] at h ⊢
      by_cases hsel : w % 256 < 8
      case neg => simp [hsel] at h
      simp only [hsel, if_true, Option.some.injEq] at h ⊢
      exact ⟨_, rfl, fun s => by rw [performCall_aluExecute, h]⟩

theorem step_withFetchWord (s : State) (nbits w : Nat) (c : HostCall) (h : callOfTableWord nbits w = some c) :
    step (s.withFetchWord nbits w) = performCall c s := by
  have hfetch : s.withFetchWord nbits w = { s with calls := c :: s.calls } := by
    simp only [State.withFetchWord, h]
  rw [hfetch, step_cons _ c s.calls rfl]

theorem decodeTableWord_byte (b : Byte) : decodeTableWord 8 b.toNat = some (decodeByte b) := by
  have hb : b.toNat < 256 := b.isLt
  simp [decodeTableWord, tableFormat, hb, tableBytes, decode_i8_cons]

theorem decodeTableWord_select : ∀ sel : BitVec 3, decodeTableWord 3 sel.toNat = some (decodeSelect sel 0 0) := by
  decide

/-- Settles O6: the word's call performs the decoded instruction, and a step in front of the list performs that call. -/
theorem fetchWordRunsTableWord : Obligations.FetchWordRunsTableWord := by
  refine ⟨fun s nbits w i h => ?_, decodeTableWord_byte, decodeTableWord_select⟩
  obtain ⟨c, hcall, hperform⟩ := callOfTableWord_of_decodeTableWord nbits w i h
  rw [step_withFetchWord s nbits w c hcall, hperform]

end Sys2Proof
end

section
/-! The float encoder (44_fpu.md section 3, R114 to R119) as one encoding of fields: under the mantissa that the spec takes for
clamped values (D16, log 13) no free value is drawn, so the fields depend on the value alone. -/

namespace Sys2Proof.Machine

/-- The fields that a value is encoded with. -/
def encodedFields : Qx → Float8
  | .infinite negative => { sign := negative, exponent := 7, mantissa := 0 }
  | .finite q =>
    if q = 0 then { sign := false, exponent := 0, mantissa := 0 }
    else if flog2 |q| + 3 ≤ 0 then { sign := decide (q < 0), exponent := 0, mantissa := 0 }
    else if 7 ≤ flog2 |q| + 3 then { sign := decide (q < 0), exponent := 7, mantissa := 0 }
    else { sign := decide (q < 0), exponent := (flog2 |q| + 3).toNat, mantissa := greedy4 (|q| / pow2 (flog2 |q|) - 1) }

theorem fpuEncodeFinite_eq (k : Nat) (q : Rat) (hq : q ≠ 0) :
    fpuEncodeFinite Config.params k q = fpuEncode Config.params (encodedFields (.finite q)) k := by
  have habs : (if q < 0 then -q else q) = |q| := by
    split
    · rename_i hneg; exact (abs_of_neg hneg).symm
    · rename_i hpos; exact (abs_of_nonneg (not_lt.1 hpos)).symm
  simp only [fpuEncodeFinite, encodedFields, hq, habs, if_false]
  split
  · rfl
  · split <;> rfl

theorem fpuCreate_eq (k : Nat) (v : Qx) :
    fpuCreate Config.params k v = fpuEncode Config.params (encodedFields v) k := by
  cases v with
  | infinite n => rfl
  | finite q =>
    by_cases hq : q = 0
    · simp only [fpuCreate, encodedFields, hq, if_true]
    · simp only [fpuCreate, hq, if_false, fpuEncodeFinite_eq k q hq]

@[simp] theorem fpuCreate_draws (k : Nat) (v : Qx) : (fpuCreate Config.params k v).draws = k := by
  rw [fpuCreate_eq]
  rfl

end Sys2Proof.Machine
end

section
/-! What one call can do: the next state of every instruction and of every call as a function (10_state.md R10, 60_exceptions.md
R190), and the two shapes that an instruction's effect has. -/

namespace Sys2Proof.Machine

/-! ### Next states -/

/-- The next state of each instruction: the record of its law in Laws/Exec.lean. -/
def execState : Instr → State → State
  | .add d s1 s2, s =>
    s.evalOwnedGates.afterInstruction (encodeByte 0 d s1 s2) d (zext16 (rca8 (s.reg s1) (s.reg s2)).sum)
      (rca8 (s.reg s1) (s.reg s2)).carryOut (rca8 (s.reg s1) (s.reg s2)).overflow
  | .sub d s1 s2, s =>
    s.evalOwnedGates.afterInstruction (encodeByte 1 d s1 s2) d (zext16 (sub8 Config.params (s.reg s1) (s.reg s2)).result)
      (sub8 Config.params (s.reg s1) (s.reg s2)).borrowOut s.alu.flags.overflow
  | .mul d s1 s2, s =>
    s.evalOwnedGates.afterInstruction (encodeByte 2 d s1 s2) d (shiftAndAdd (s.reg s1) (s.reg s2)) false
      s.alu.flags.overflow
  | .mov d s1 s2, s =>
    s.afterInstruction (encodeByte 3 d s1 s2) d
      (lowFirst (div8 (s.reg s1) (s.reg s2)).quotient (div8 (s.reg s1) (s.reg s2)).remainder)
      (div8 (s.reg s1) (s.reg s2)).divByZero s.alu.flags.overflow
  | .aluAdd a b, s => s.evalOwnedGates.afterAlu (zext16 (rca8 a b).sum) (rca8 a b).carryOut (rca8 a b).overflow
  | .aluSub a b, s =>
    s.evalOwnedGates.afterAlu (zext16 (sub8 Config.params a b).result) (sub8 Config.params a b).borrowOut
      s.alu.flags.overflow
  | .aluMul a b, s => s.evalOwnedGates.afterAlu (shiftAndAdd a b) false s.alu.flags.overflow
  | .aluDiv a b, s =>
    s.afterAlu (lowFirst (div8 a b).quotient (div8 a b).remainder) (div8 a b).divByZero s.alu.flags.overflow
  | .aluFadd a b, s =>
    (s.setFpu (fpuAdd Config.params s.draws a b)).afterAlu (zext16 (fpuAdd Config.params s.draws a b).bits) false
      s.alu.flags.overflow
  | .aluFmul a b, s =>
    (s.setFpu (fpuMultiply Config.params s.draws a b)).afterAlu (zext16 (fpuMultiply Config.params s.draws a b).bits) false
      s.alu.flags.overflow
  | .aluNop6 _ _, s => s.afterAlu s.alu.result s.alu.flags.carry s.alu.flags.overflow
  | .aluNop7 _ _, s => s.afterAlu s.alu.result s.alu.flags.carry s.alu.flags.overflow

theorem exec_eq_next (i : Instr) (s : State) : exec i s = .next (execState i s) := by
  cases i with
  | add d s1 s2 => exact exec_add_eq d s1 s2 s
  | sub d s1 s2 => exact exec_sub_eq d s1 s2 s
  | mul d s1 s2 => exact exec_mul_eq d s1 s2 s
  | mov d s1 s2 => exact exec_mov_eq d s1 s2 s
  | aluAdd a b => exact exec_aluAdd_eq a b s
  | aluSub a b => exact exec_aluSub_eq a b s
  | aluMul a b => exact exec_aluMul_eq a b s
  | aluDiv a b => exact exec_aluDiv_eq a b s
  | aluFadd a b => exact exec_aluFadd_eq a b s
  | aluFmul a b => exact exec_aluFmul_eq a b s
  | aluNop6 a b => exact exec_aluNop6_eq a b s
  | aluNop7 a b => exact exec_aluNop7_eq a b s

theorem eq_execState_of_exec {i : Instr} {s t : State} (h : exec i s = .next t) : t = execState i s := by
  rw [exec_eq_next] at h
  exact (Host.Outcome.next.inj h).symm

/-- The state after one call of the host. -/
def callState : HostCall → State → State
  | .executeInstruction b, s => execState (decodeByte b) s
  | .aluExecute sel a b, s => execState (decodeSelect sel a b) s
  | .op o, s => hostOp o s

theorem performCall_eq_next (c : HostCall) (s : State) : performCall c s = .next (callState c s) := by
  cases c with
  | executeInstruction b => exact exec_eq_next (decodeByte b) s
  | aluExecute sel a b => exact exec_eq_next (decodeSelect sel a b) s
  | op o => rfl

theorem step_eq_next_callState (s : State) (c : HostCall) (rest : List HostCall) (h : s.calls = c :: rest) :
    step s = .next (callState c { s with calls := rest }) := by
  rw [step_cons s c rest h, performCall_eq_next]

theorem eq_callState_of_step {s t : State} {c : HostCall} {rest : List HostCall} (hcalls : s.calls = c :: rest)
    (h : step s = .next t) : t = callState c { s with calls := rest } := by
  rw [step_eq_next_callState s c rest hcalls] at h
  exact (Host.Outcome.next.inj h).symm

/-! ### What the blocks behind an instruction touch -/

theorem le_draws_fpuFinish (k : Nat) (v : Option Qx) : k ≤ (fpuFinish Config.params k v).draws := by
  cases v with
  | some v => exact (fpuCreate_draws k v).ge
  | none => exact Nat.le_succ k

/-- The blocks an instruction calls beside the ALU's own record: none, gate-level units (log 8), or the float unit with what it
answered. -/
inductive BlocksRan (s : State) : State → Prop
  | none : BlocksRan s s
  | gates : BlocksRan s s.evalOwnedGates
  | float (o : FpuOut) (hdraws : s.draws ≤ o.draws) : BlocksRan s (s.setFpu o)

/-- What the blocks can touch: what their own gates show, the draws and the FPU's status. -/
theorem BlocksRan.eq {s t : State} (h : BlocksRan s t) :
    t = { s with ownedGates := t.ownedGates, draws := t.draws, fpu := t.fpu } := by
  cases h <;> rfl

/-- Either shape of an instruction's effect: `execute_instruction`'s record or a direct ALU call's, over what the blocks left. -/
theorem execState_cases (i : Instr) (s : State) :
    ∃ u, BlocksRan s u ∧
      ((∃ o d s1 s2 w c v, i.format = .i8 ∧ encode i = [encodeByte o d s1 s2] ∧
          execState i s = u.afterInstruction (encodeByte o d s1 s2) d w c v ∧
          i.wellFormed = (Reg.nameable d && Reg.nameable s1 && Reg.nameable s2)) ∨
        (∃ w c v, i.format = .alu3 ∧ execState i s = u.afterAlu w c v)) := by
  cases i with
  | add d s1 s2 => exact ⟨_, .gates, .inl ⟨0, d, s1, s2, _, _, _, rfl, rfl, rfl, rfl⟩⟩
  | sub d s1 s2 => exact ⟨_, .gates, .inl ⟨1, d, s1, s2, _, _, _, rfl, rfl, rfl, rfl⟩⟩
  | mul d s1 s2 => exact ⟨_, .gates, .inl ⟨2, d, s1, s2, _, _, _, rfl, rfl, rfl, rfl⟩⟩
  | mov d s1 s2 => exact ⟨_, .none, .inl ⟨3, d, s1, s2, _, _, _, rfl, rfl, rfl, rfl⟩⟩
  | aluAdd a b => exact ⟨_, .gates, .inr ⟨_, _, _, rfl, rfl⟩⟩
  | aluSub a b => exact ⟨_, .gates, .inr ⟨_, _, _, rfl, rfl⟩⟩
  | aluMul a b => exact ⟨_, .gates, .inr ⟨_, _, _, rfl, rfl⟩⟩
  | aluDiv a b => exact ⟨_, .none, .inr ⟨_, _, _, rfl, rfl⟩⟩
  | aluFadd a b => exact ⟨_, .float _ (le_draws_fpuFinish _ _), .inr ⟨_, _, _, rfl, rfl⟩⟩
  | aluFmul a b => exact ⟨_, .float _ (le_draws_fpuFinish _ _), .inr ⟨_, _, _, rfl, rfl⟩⟩
  | aluNop6 a b => exact ⟨_, .none, .inr ⟨_, _, _, rfl, rfl⟩⟩
  | aluNop7 a b => exact ⟨_, .none, .inr ⟨_, _, _, rfl, rfl⟩⟩

end Sys2Proof.Machine
end

section
/-! The machine's invariant (41_composite_logic.md section 4, 47_control_cpu.md section 1, 45_alu.md section 4,
20_memory.md section 1): each operation over the state keeps it, so every call and every step does. -/

namespace Sys2Proof.Machine

/-- The invariant by name: `State.inv` field by field. -/
structure State.Inv (s : State) : Prop where
  memory : Memory.wf s.mem = true
  srLatches : latchesWf s.srLatches = true
  dLatches : latchesWf s.dLatches = true
  gateOut : storeWf gateOutDefault s.gateOut = true
  control : s.cu.consistent = true
  flags : s.alu.flags.consistent = true
  draws : s.drawsFresh = true

theorem State.inv_iff (s : State) : s.inv = true ↔ s.Inv := by
  simp only [State.inv, Bool.and_eq_true]
  constructor
  · rintro ⟨⟨⟨⟨⟨⟨hmem, hsr⟩, hd⟩, hgate⟩, hcu⟩, hflags⟩, hdraws⟩
    exact ⟨hmem, hsr, hd, hgate, hcu, hflags, hdraws⟩
  · rintro ⟨hmem, hsr, hd, hgate, hcu, hflags, hdraws⟩
    exact ⟨⟨⟨⟨⟨⟨hmem, hsr⟩, hd⟩, hgate⟩, hcu⟩, hflags⟩, hdraws⟩

/-! ### Latches -/

/-- R76: set, reset, and hold, the inputs (1,1) among the last. -/
theorem Latch.applySr_eq (l : Latch) (set reset : Bit) :
    l.applySr set reset =
      if set && !reset then { q := true, qbar := false } else if reset && !set then { q := false, qbar := true } else l := by
  cases set <;> cases reset <;> rfl

/-- R78: transparent when enabled, else holding. -/
theorem Latch.applyD_eq (l : Latch) (data enable : Bit) :
    l.applyD data enable = if enable then { q := data, qbar := !data } else l := by
  cases data <;> cases enable <;> rfl

theorem Latch.applySr_complementary (l : Latch) (set reset : Bit) (h : l.complementary = true) :
    (l.applySr set reset).complementary = true := by
  rw [Latch.applySr_eq]
  split
  · rfl
  · split
    · rfl
    · exact h

theorem Latch.applyD_complementary (l : Latch) (data enable : Bit) (h : l.complementary = true) :
    (l.applyD data enable).complementary = true := by
  rw [Latch.applyD_eq]
  split
  · simp [Latch.complementary]
  · exact h

theorem latchesWf_iff (l : List (Nat × Latch)) :
    latchesWf l = true ↔ storeWf latchDefault l = true ∧ ∀ e ∈ l, e.2.complementary = true := by
  simp [latchesWf]

/-- Every listed latch is complementary, and so is the one an unlisted number reads as. -/
theorem storeRead_complementary (l : List (Nat × Latch)) (n : Nat) (h : ∀ e ∈ l, e.2.complementary = true) :
    (storeRead latchDefault l n).complementary = true := by
  induction l with
  | nil => rfl
  | cons e rest ih =>
    obtain ⟨k, v⟩ := e
    simp only [storeRead]
    split
    · exact h (k, v) List.mem_cons_self
    · exact ih fun e he => h e (List.mem_cons_of_mem _ he)

theorem latchesWf_storeWrite (l : List (Nat × Latch)) (n : Nat) (v : Latch) (h : latchesWf l = true)
    (hv : v.complementary = true) : latchesWf (storeWrite latchDefault l n v) = true := by
  obtain ⟨hwf, hcomp⟩ := (latchesWf_iff l).1 h
  refine (latchesWf_iff _).2 ⟨storeWf_storeWrite _ _ _ _ hwf, fun e he => ?_⟩
  rcases mem_storeWrite _ _ _ _ e he with he | rfl
  · exact hcomp e he
  · exact hv

/-! ### Flags and control unit -/

theorem signOf_lowByte (w : Wide) : signOf w = (lowByte w).getLsbD 7 := by
  simp [signOf, lowByte]

/-- R143: a result whose low byte is 0 has bit 7 clear. -/
theorem flagsAfter_consistent (w : Wide) (c v : Bit) : (flagsAfter w c v).consistent = true := by
  by_cases hzero : lowByte w = 0
  · simp [Flags.consistent, flagsAfter, signOf_lowByte, hzero]
  · have hne : zeroOf w = false := decide_eq_false hzero
    simp [Flags.consistent, flagsAfter, hne]

theorem ControlUnit.decoded_consistent (c : ControlUnit) (b : Byte) : (c.decoded b).consistent = true :=
  decide_eq_true ⟨rfl, rfl, rfl, rfl, rfl⟩

theorem ControlUnit.executed_consistent (c : ControlUnit) (b : Byte) : (c.executed b).consistent = true :=
  decide_eq_true ⟨rfl, rfl, rfl, rfl, rfl⟩

/-! ### Each operation keeps the invariant -/

section
variable {s : State} (h : s.Inv)
include h

theorem State.Inv.memoryWrite (a v : Int) : (s.memoryWrite a v).Inv := by
  have hmem := State.memoryWrite_wf s a v h.memory
  rw [State.memoryWrite_eq]
  exact { h with memory := hmem }

theorem State.Inv.registerWrite (i v : Int) : (s.registerWrite i v).Inv := by
  rw [State.registerWrite_eq]
  exact { h with }

theorem State.Inv.loadMemory (a v : Int) : (s.loadMemory a v).Inv :=
  State.Inv.memoryWrite (s := (s.setAddress a .host).transfer v .host .mem) { h with } a v

theorem State.Inv.evalOwnedGates : s.evalOwnedGates.Inv :=
  { h with draws := decide_eq_true (Nat.lt_succ_self s.draws) }

theorem State.Inv.evalGate (n : Nat) (g : GateInput) : (s.evalGate n g).Inv :=
  { h with gateOut := storeWf_storeWrite _ _ _ _ h.gateOut }

theorem State.Inv.applySrLatch (n : Nat) (set reset : Bit) : (s.applySrLatch n set reset).Inv :=
  have hold := storeRead_complementary s.srLatches n ((latchesWf_iff _).1 h.srLatches).2
  { h with srLatches := latchesWf_storeWrite _ _ _ h.srLatches (Latch.applySr_complementary _ _ _ hold) }

theorem State.Inv.applyDLatch (n : Nat) (data enable : Bit) : (s.applyDLatch n data enable).Inv :=
  have hold := storeRead_complementary s.dLatches n ((latchesWf_iff _).1 h.dLatches).2
  { h with dLatches := latchesWf_storeWrite _ _ _ h.dLatches (Latch.applyD_complementary _ _ _ hold) }

/-- The draw behind the owned outputs stays below a number of draws that only rises. -/
theorem State.Inv.setFpu (o : FpuOut) (hdraws : s.draws ≤ o.draws) : (s.setFpu o).Inv := by
  refine { h with draws := ?_ }
  have hfresh := h.draws
  simp only [State.drawsFresh, State.setFpu_ownedGates, State.setFpu_draws] at hfresh ⊢
  split
  · rfl
  · rename_i k hk
    rw [hk] at hfresh
    exact decide_eq_true ((of_decide_eq_true hfresh).trans_le hdraws)

theorem State.Inv.controlDecode (b : Byte) : (s.controlDecode b).Inv :=
  { h with control := s.cu.decoded_consistent b }

theorem State.Inv.incrementPc : s.incrementPc.Inv :=
  { h with control := h.control }

theorem State.Inv.resetCall : (s.resetCall Config.params).Inv :=
  have hcontrol : State.reset.cu.consistent = true := by decide
  { h with memory := reset_memory_wf, control := hcontrol }

theorem State.Inv.afterInstruction (b : Byte) (d : Reg) (w : Wide) (c v : Bit) : (s.afterInstruction b d w c v).Inv :=
  { h with control := s.cu.executed_consistent b, flags := flagsAfter_consistent w c v }

theorem State.Inv.afterAlu (w : Wide) (c v : Bit) : (s.afterAlu w c v).Inv :=
  { h with flags := flagsAfter_consistent w c v }

theorem State.Inv.blocksRan {u : State} (hu : BlocksRan s u) : u.Inv := by
  cases hu with
  | none => exact h
  | gates => exact h.evalOwnedGates
  | float o hdraws => exact h.setFpu o hdraws

/-! ### Every call keeps the invariant -/

theorem State.Inv.execState (i : Instr) : (execState i s).Inv := by
  obtain ⟨u, hu, ⟨o, d, s1, s2, w, c, v, _, _, heffect, _⟩ | ⟨w, c, v, _, heffect⟩⟩ := execState_cases i s
  · rw [heffect]
    exact (h.blocksRan hu).afterInstruction _ d w c v
  · rw [heffect]
    exact (h.blocksRan hu).afterAlu w c v

theorem State.Inv.hostOp (o : HostOp) : (hostOp o s).Inv := by
  cases o with
  | registerRead | memoryRead | memoryReadRange | readMemory | dataBusTransfer | addressBusSet | snapshot | divider | fpuParse =>
    exact { h with }
  | registerWrite i v => exact { h.registerWrite i v with }
  | memoryWrite a v => exact { h.memoryWrite a v with }
  | loadMemory a v => exact { h.loadMemory a v with }
  | controlDecode b => exact { h.controlDecode b with }
  | incrementPc => exact { h.incrementPc with }
  | resetCall => exact { h.resetCall with }
  | adder | subtractor | multiplier | halfAdder | fullAdder | oneBitSubtractor | multiplexer =>
    exact { h.evalOwnedGates with }
  | fpuCreate v => exact { h.setFpu _ (fpuCreate_draws s.draws v).ge with }
  | fpuAdd | fpuMultiply => exact { h.setFpu _ (le_draws_fpuFinish s.draws _) with }
  | srLatch n set reset => exact { (h.applySrLatch n set reset).evalOwnedGates with }
  | dLatch n data enable => exact { (h.applyDLatch n data enable).evalOwnedGates with }
  | gate n g => exact { h.evalGate n g with }

theorem State.Inv.callState (c : HostCall) : (callState c s).Inv := by
  cases c with
  | executeInstruction b => exact h.execState (decodeByte b)
  | aluExecute sel a b => exact h.execState (decodeSelect sel a b)
  | op o => exact h.hostOp o

end

/-- Settles O57: a step makes no call or one, and every call keeps each part of the invariant. -/
theorem stepKeepsInvariant : Obligations.StepKeepsInvariant := by
  intro s t hinv hstep
  have h := s.inv_iff.1 hinv
  refine t.inv_iff.2 ?_
  cases hcalls : s.calls with
  | nil =>
    rw [step_nil s hcalls] at hstep
    exact Host.Outcome.next.inj hstep ▸ h
  | cons c rest =>
    rw [eq_callState_of_step hcalls hstep]
    have hrest : State.Inv { s with calls := rest } := { h with }
    exact hrest.callState c

/-- Settles O56: construction lists nothing, so its tables are canonical, and both its counters are 0. -/
theorem constructionHasInvariant : Obligations.ConstructionHasInvariant :=
  ⟨rfl, rfl⟩

end Sys2Proof.Machine
end

section
/-! The gates and the composite blocks (40_gates.md section 1, 41_composite_logic.md sections 2, 3 and 5): each computes what its
arithmetic says. -/

namespace Sys2Proof.Machine

theorem gateAnd_val (a b : Bit) : bitVal (gateAnd a b) = bitVal a * bitVal b := by
  cases a <;> cases b <;> rfl

theorem gateOr_val (a b : Bit) : bitVal (gateOr a b) + bitVal a * bitVal b = bitVal a + bitVal b := by
  cases a <;> cases b <;> rfl

theorem gateNot_val (a : Bit) : bitVal (gateNot a) = 1 - bitVal a := by
  cases a <;> rfl

theorem gateXor_val (a b : Bit) : bitVal (gateXor a b) = (bitVal a + bitVal b) % 2 := by
  cases a <;> cases b <;> rfl

theorem gateNand_val (a b : Bit) : bitVal (gateNand a b) = 1 - bitVal a * bitVal b := by
  cases a <;> cases b <;> rfl

theorem gateNor_val (a b : Bit) : bitVal (gateNor a b) = (1 - bitVal a) * (1 - bitVal b) := by
  cases a <;> cases b <;> rfl

theorem halfAdder_val (a b : Bit) : bitVal a + bitVal b = bitVal (halfAdder a b).1 + 2 * bitVal (halfAdder a b).2 := by
  cases a <;> cases b <;> rfl

/-- R74: a FullAdder on the inverted subtrahend. -/
theorem oneBitSubtractor_val (a b c : Bit) :
    bitVal a + (1 - bitVal b) + bitVal c = bitVal (oneBitSubtractor a b c).1 + 2 * bitVal (oneBitSubtractor a b c).2 := by
  rw [← gateNot_val]
  exact (fullAdder_val a (gateNot b) c).symm

theorem multiplexer2to1_eq (a b sel : Bit) : multiplexer2to1 a b sel = if sel then b else a := by
  cases a <;> cases b <;> cases sel <;> rfl

/-- Settles O7: the arithmetic of each gate and of each block built of them. -/
theorem logicBlocksCompute : Obligations.LogicBlocksCompute := fun a b c =>
  ⟨gateAnd_val a b, gateOr_val a b, gateNot_val a, gateXor_val a b, gateNand_val a b, gateNor_val a b, halfAdder_val a b,
    (fullAdder_val a b c).symm, oneBitSubtractor_val a b c, multiplexer2to1_eq a b c⟩

end Sys2Proof.Machine
end

section
/-! The subtractor and the divider (42_adder_subtractor.md section 2, 43_multiplier_divider.md section 2). -/

namespace Sys2Proof.Machine

/-! ### Subtractor -/

/-- R89: `a + NOT(b) + 1` on the carry chain is `a - b + 256`, exactly; the borrow output is made of the last carry. -/
theorem sub8_val (p : Config.Params) (a b : Byte) :
    ∃ c, (sub8 p a b).result.toNat + 256 * bitVal c + b.toNat = a.toNat + 256 ∧
      (sub8 p a b).borrowOut = borrowOfCarry p c := by
  refine ⟨_, ?_, rfl⟩
  have hlen : (bitsOf a).length = ((bitsOf b).map gateNot).length := by
    rw [List.length_map, bitsOf_length, bitsOf_length]
  have hsumLen := (rippleCarry_length _ _ true hlen).trans (bitsOf_length a)
  have hchain := rippleCarry_val (bitsOf a) ((bitsOf b).map gateNot) true hlen
  have hnot := bitsVal_map_gateNot (bitsOf b)
  rw [bitsOf_length, bitsVal_bitsOf] at hchain hnot
  simp only [sub8, byteOfBits_toNat _ hsumLen]
  have hone : bitVal true = 1 := rfl
  omega

theorem bitVal_le_one (c : Bit) : bitVal c ≤ 1 := by
  cases c <;> decide

theorem bitVal_eq_one_iff (c : Bit) : bitVal c = 1 ↔ c = true := by
  cases c <;> decide

theorem sub8_result_toNat (p : Config.Params) (a b : Byte) :
    ((sub8 p a b).result.toNat : Int) = ((a.toNat : Int) - b.toNat) % 256 := by
  obtain ⟨c, hval, _⟩ := sub8_val p a b
  have hresult : (sub8 p a b).result.toNat < 256 := (sub8 p a b).result.isLt
  omega

/-- The last carry is 1 just where nothing was borrowed. -/
theorem sub8_borrowOut (p : Config.Params) (a b : Byte) :
    (sub8 p a b).borrowOut = borrowOfCarry p (decide (b.toNat ≤ a.toNat)) := by
  obtain ⟨c, hval, hborrow⟩ := sub8_val p a b
  have hresult : (sub8 p a b).result.toNat < 256 := (sub8 p a b).result.isLt
  have hle := bitVal_le_one c
  have hc : c = decide (b.toNat ≤ a.toNat) := by
    rw [Bool.eq_iff_iff, decide_eq_true_iff, ← bitVal_eq_one_iff]
    omega
  rw [hborrow, hc]

/-- Settles O12: the last carry says that `b ≤ a`; the polarity hands it on or inverts it. -/
theorem subtractorMatchesArithmetic : Obligations.SubtractorMatchesArithmetic := by
  intro p a b
  refine ⟨sub8_result_toNat p a b, fun hraw => ?_, fun hinverted => ?_⟩
  · simp only [sub8_borrowOut, borrowOfCarry, hraw, decide_eq_true_iff]
  · have hnot : ∀ c, gateNot c = !c := by decide
    simp only [sub8_borrowOut, borrowOfCarry, hinverted, hnot]
    simp

/-! ### Divider -/

theorem byte_eq_zero_iff (v : Byte) : v = 0 ↔ v.toNat = 0 :=
  BitVec.toNat_eq

/-- R104: a zero divisor. -/
theorem div8_zero (d : Byte) : div8 d 0 = { quotient := 0, remainder := d, divByZero := true } := rfl

/-- R103: 255 iterations are enough, because the quotient of two bytes is at most 255. -/
theorem div8_of_ne_zero (d v : Byte) (hv : v ≠ 0) :
    div8 d v = { quotient := BitVec.ofNat 8 (d.toNat / v.toNat), remainder := BitVec.ofNat 8 (d.toNat % v.toNat),
                 divByZero := false } := by
  have hv0 : v.toNat ≠ 0 := fun h => hv ((byte_eq_zero_iff v).2 h)
  have hfuel : d.toNat / v.toNat ≤ 255 := (Nat.div_le_self _ _).trans (Nat.le_of_lt_succ d.isLt)
  have hloop := divLoop_spec v.toNat (Nat.pos_of_ne_zero hv0) 255 0 d.toNat hfuel
  simp only [div8, hv0, if_false, hloop, Nat.zero_add]

theorem div8_divByZero (d v : Byte) : (div8 d v).divByZero = decide (v = 0) := by
  by_cases hv : v = 0
  · rw [hv, div8_zero]; rfl
  · rw [div8_of_ne_zero d v hv]; exact (decide_eq_false hv).symm

theorem div8_quotient_toNat (d v : Byte) : (div8 d v).quotient.toNat = d.toNat / v.toNat := by
  by_cases hv : v = 0
  · rw [hv, div8_zero]; simp
  · have hlt : d.toNat / v.toNat < 256 := (Nat.div_le_self _ _).trans_lt d.isLt
    simp [div8_of_ne_zero d v hv, Nat.mod_eq_of_lt hlt]

theorem div8_remainder_toNat (d v : Byte) : (div8 d v).remainder.toNat = d.toNat % v.toNat := by
  by_cases hv : v = 0
  · rw [hv, div8_zero]; simp
  · have hlt : d.toNat % v.toNat < 256 := (Nat.mod_le _ _).trans_lt d.isLt
    simp [div8_of_ne_zero d v hv, Nat.mod_eq_of_lt hlt]

/-- Settles O15: the outputs are the quotient and the remainder of the numbers, which recompose the dividend. -/
theorem dividerDivides : Obligations.DividerDivides := by
  intro d v
  refine ⟨fun hv => ⟨div8_quotient_toNat d v, div8_remainder_toNat d v, ?_, ?_, ?_⟩, fun hv => hv ▸ div8_zero d⟩
  · rw [div8_divByZero]; exact decide_eq_false hv
  · rw [div8_quotient_toNat, div8_remainder_toNat]; exact (Nat.div_add_mod _ _).symm
  · rw [div8_remainder_toNat]
    exact Nat.mod_lt _ (Nat.pos_of_ne_zero fun h => hv ((byte_eq_zero_iff v).2 h))

end Sys2Proof.Machine
end

section
/-! The truncating multiplier (43_multiplier_divider.md section 1, R95 to R99; D10, log 11): the two accumulators never lose a carry,
so the product is the sum of the shifted operands, each reduced modulo 256. -/

namespace Sys2Proof.Machine

/-! ### Shift and increment -/

theorem byteOfBits_bitsOf (v : Byte) : byteOfBits (bitsOf v) = v := by
  apply BitVec.eq_of_toNat_eq
  rw [byteOfBits_toNat _ (bitsOf_length v), bitsVal_bitsOf]

theorem shl8_eq_shiftLeft (a : Byte) (i : Nat) : shl8 a i = a <<< i := by
  rw [← byteOfBits_bitsOf (a <<< i), shl8, bitsOf]
  congr 1
  refine List.map_congr_left fun j hj => ?_
  have hj : j < 8 := List.mem_range.1 hj
  rw [BitVec.getLsbD_shiftLeft]
  by_cases hij : i ≤ j
  · simp only [hij, hj, Nat.not_lt.2 hij, if_true, decide_true, decide_false, Bool.not_false, Bool.true_and]
  · simp [hij, Nat.lt_of_not_le hij]

theorem shl8_toNat (a : Byte) (i : Nat) : (shl8 a i).toNat = a.toNat * 2 ^ i % 256 := by
  rw [shl8_eq_shiftLeft, BitVec.toNat_shiftLeft, Nat.shiftLeft_eq]

theorem inc8_toNat (h : Byte) (c : Bit) : (inc8 h c).toNat = (h.toNat + bitVal c) % 256 := by
  obtain ⟨hlen, hval⟩ := rippleIncrement_val (bitsOf h) c
  rw [bitsOf_length] at hlen hval
  rw [inc8, byteOfBits_toNat _ hlen, hval, bitsVal_bitsOf]
  rfl

/-! ### The accumulators -/

/-- The number that the two accumulators hold. -/
def MulAcc.val (acc : MulAcc) : Nat := acc.low.toNat + 256 * acc.high.toNat

/-- The closed form: the shifted operand of each set bit, reduced modulo 256. -/
def mulTerm (a b : Byte) (i : Nat) : Nat := if b.getLsbD i then a.toNat * 2 ^ i % 256 else 0

theorem mulTerm_le (a b : Byte) (i : Nat) : mulTerm a b i ≤ 255 := by
  unfold mulTerm
  split
  · exact Nat.le_of_lt_succ (Nat.mod_lt _ (by decide))
  · exact Nat.zero_le _

/-- One step adds its term exactly while the high accumulator has room for the carry. -/
theorem mulStep_val (a b : Byte) (acc : MulAcc) (i : Nat) (hroom : acc.high.toNat < 255) :
    (mulStep a b acc i).val = acc.val + mulTerm a b i := by
  unfold mulStep mulTerm
  split
  · have hsum := rca8_val acc.low (shl8 a i)
    have hle := bitVal_le_one (rca8 acc.low (shl8 a i)).carryOut
    rw [shl8_toNat] at hsum
    simp only [MulAcc.val, inc8_toNat]
    omega
  · rfl

theorem sum_mulTerm_le (a b : Byte) (n : Nat) : ∑ i ∈ Finset.range n, mulTerm a b i ≤ 255 * n := by
  calc ∑ i ∈ Finset.range n, mulTerm a b i
      ≤ ∑ _i ∈ Finset.range n, 255 := Finset.sum_le_sum fun i _ => mulTerm_le a b i
    _ = 255 * n := by rw [Finset.sum_const, Finset.card_range, smul_eq_mul, Nat.mul_comm]

/-- After `n` of the eight steps the accumulators hold the sum of the first `n` terms. -/
theorem foldl_mulStep_val (a b : Byte) (n : Nat) (hn : n ≤ 8) :
    ((List.range n).foldl (mulStep a b) { low := 0, high := 0 }).val = ∑ i ∈ Finset.range n, mulTerm a b i := by
  induction n with
  | zero => rfl
  | succ n ih =>
    have hacc := ih (Nat.le_of_succ_le hn)
    have hbound := sum_mulTerm_le a b n
    rw [List.range_succ, List.foldl_append, List.foldl_cons, List.foldl_nil, mulStep_val, hacc, Finset.sum_range_succ]
    rw [← hacc, MulAcc.val] at hbound
    omega

theorem shiftAndAdd_toNat (a b : Byte) : (shiftAndAdd a b).toNat = ∑ i ∈ Finset.range 8, mulTerm a b i := by
  rw [← foldl_mulStep_val a b 8 le_rfl, shiftAndAdd, lowFirst_toNat, MulAcc.val]

/-- Settles O13: the closed form is the sum that the accumulators hold after all eight steps. -/
theorem multiplierClosedForm : Obligations.MultiplierClosedForm :=
  shiftAndAdd_toNat

/-! ### Comparison with the exact product -/

theorem mod_two_pow_eq_sum_bits (b : Byte) (n : Nat) :
    b.toNat % 2 ^ n = ∑ i ∈ Finset.range n, if b.getLsbD i then 2 ^ i else 0 := by
  induction n with
  | zero => simp [Nat.mod_one]
  | succ n ih =>
    rw [Finset.sum_range_succ, ← ih, Nat.mod_pow_succ, BitVec.getLsbD, Nat.testBit_eq_decide_div_mod_eq]
    rcases Nat.mod_two_eq_zero_or_one (b.toNat / 2 ^ n) with hbit | hbit <;> simp [hbit]

/-- The exact product by the set bits of `b`: the sum of the closed form without the reductions. -/
theorem mul_eq_sum_shifts (a b : Byte) :
    a.toNat * b.toNat = ∑ i ∈ Finset.range 8, if b.getLsbD i then a.toNat * 2 ^ i else 0 := by
  have hb : b.toNat = b.toNat % 2 ^ 8 := (Nat.mod_eq_of_lt b.isLt).symm
  rw [hb, mod_two_pow_eq_sum_bits, Finset.mul_sum]
  exact Finset.sum_congr rfl fun i _ => by rw [mul_ite, Nat.mul_zero]

theorem shiftAndAdd_mod (a b : Byte) : (shiftAndAdd a b).toNat % 256 = a.toNat * b.toNat % 256 := by
  rw [shiftAndAdd_toNat, mul_eq_sum_shifts]
  refine Nat.ModEq.sum fun i _ => ?_
  unfold mulTerm
  split
  · exact Nat.mod_mod _ _
  · rfl

theorem lowByte_toNat (w : Wide) : (lowByte w).toNat = w.toNat % 256 := by
  simp [lowByte]

theorem highByte_toNat (w : Wide) : (highByte w).toNat = w.toNat / 256 := by
  have hw : w.toNat < 65536 := w.isLt
  simp only [highByte, BitVec.extractLsb'_toNat, Nat.shiftRight_eq_div_pow]
  omega

theorem lowByte_mul8_toNat (p : Config.Params) (a b : Byte) :
    (lowByte (mul8 p a b)).toNat = a.toNat * b.toNat % 256 := by
  unfold mul8
  split
  · rw [lowByte_toNat, shiftAndAdd_mod]
  · rw [lowByte_toNat, BitVec.toNat_ofNat]
    exact Nat.mod_mod_of_dvd _ (by decide)

theorem highByte_shiftAndAdd_le (a b : Byte) : (highByte (shiftAndAdd a b)).toNat ≤ 7 := by
  have hsum := sum_mulTerm_le a b 8
  rw [← shiftAndAdd_toNat] at hsum
  rw [highByte_toNat]
  omega

/-! ### The product commutes -/

/-- A shifted operand by its set bits, those shifted out of the byte left out. -/
theorem mul_two_pow_mod_eq_sum (a : Byte) (i : Nat) (hi : i ≤ 8) :
    a.toNat * 2 ^ i % 256 = ∑ j ∈ Finset.range 8, if i + j < 8 ∧ a.getLsbD j then 2 ^ (i + j) else 0 := by
  have hsplit : 256 = 2 ^ (8 - i) * 2 ^ i := by rw [← Nat.pow_add, Nat.sub_add_cancel hi]
  have hsub : Finset.range (8 - i) ⊆ Finset.range 8 := Finset.range_subset_range.2 (Nat.sub_le 8 i)
  rw [hsplit, Nat.mul_mod_mul_right, mod_two_pow_eq_sum_bits, Finset.sum_mul, ← Finset.sum_subset hsub]
  · refine Finset.sum_congr rfl fun j hj => ?_
    have hij : i + j < 8 := by have := Finset.mem_range.1 hj; omega
    simp [hij, Nat.pow_add, Nat.mul_comm]
  · intro j _ hj
    have hij : ¬ i + j < 8 := by have := mt Finset.mem_range.2 hj; omega
    simp [hij]

/-- The truncating product by pairs of set bits: the pairs that stay below bit 8, each once. -/
theorem shiftAndAdd_eq_sum_pairs (a b : Byte) :
    (shiftAndAdd a b).toNat =
      ∑ i ∈ Finset.range 8, ∑ j ∈ Finset.range 8,
        if b.getLsbD i ∧ a.getLsbD j ∧ i + j < 8 then 2 ^ (i + j) else 0 := by
  rw [shiftAndAdd_toNat]
  refine Finset.sum_congr rfl fun i hi => ?_
  unfold mulTerm
  split
  · rename_i hbit
    rw [mul_two_pow_mod_eq_sum a i (Finset.mem_range.1 hi).le]
    exact Finset.sum_congr rfl fun j _ => by simp [hbit, and_comm]
  · rename_i hbit
    simp [hbit]

theorem shiftAndAdd_comm (a b : Byte) : shiftAndAdd a b = shiftAndAdd b a := by
  apply BitVec.eq_of_toNat_eq
  rw [shiftAndAdd_eq_sum_pairs, shiftAndAdd_eq_sum_pairs, Finset.sum_comm]
  refine Finset.sum_congr rfl fun i _ => Finset.sum_congr rfl fun j _ => ?_
  simp only [Nat.add_comm j i, and_left_comm]

/-! ### Where the product is exact -/

/-- No reduction loses anything just where no set bit of `b` shifts `a` out of the byte. -/
theorem shiftAndAdd_exact_iff (a b : Byte) :
    (shiftAndAdd a b).toNat = a.toNat * b.toNat ↔ ∀ i, b.getLsbD i = true → a.toNat * 2 ^ i < 256 := by
  rw [shiftAndAdd_toNat, mul_eq_sum_shifts, Finset.sum_eq_sum_iff_of_le]
  · constructor
    · intro hterms i hbit
      have hi : i < 8 := BitVec.lt_of_getLsbD hbit
      have hterm := hterms i (Finset.mem_range.2 hi)
      simp only [mulTerm, hbit, if_true] at hterm
      exact hterm ▸ Nat.mod_lt _ (by decide)
    · intro hshift i _
      unfold mulTerm
      split
      · exact Nat.mod_eq_of_lt (hshift i ‹_›)
      · rfl
  · intro i _
    unfold mulTerm
    split
    · exact Nat.mod_le _ _
    · exact le_rfl

theorem shift_lt_iff_log2 (a : Byte) (ha : a ≠ 0) (i : Nat) : a.toNat * 2 ^ i < 256 ↔ Nat.log2 a.toNat + i ≤ 7 := by
  have ha0 : a.toNat ≠ 0 := fun h => ha ((byte_eq_zero_iff a).2 h)
  have hlow : 2 ^ (Nat.log2 a.toNat + i) ≤ a.toNat * 2 ^ i := by
    rw [Nat.pow_add]; exact Nat.mul_le_mul_right _ (Nat.log2_self_le ha0)
  have hhigh : a.toNat * 2 ^ i < 2 ^ (Nat.log2 a.toNat + 1 + i) := by
    rw [Nat.pow_add]; exact Nat.mul_lt_mul_of_pos_right Nat.lt_log2_self (Nat.two_pow_pos i)
  constructor
  · intro hlt
    exact Nat.le_of_lt_succ ((Nat.pow_lt_pow_iff_right (by decide)).1 (hlow.trans_lt (hlt : _ < 2 ^ 8)))
  · intro hle
    exact hhigh.trans_le (Nat.pow_le_pow_right (n := 2) (j := 8) (by decide) (by omega))

theorem getLsbD_le_log2 (b : Byte) (i : Nat) (h : b.getLsbD i = true) : i ≤ Nat.log2 b.toNat := by
  have hpow : 2 ^ i ≤ b.toNat := Nat.ge_two_pow_of_testBit h
  exact (Nat.le_log2 (Nat.ne_of_gt (lt_of_lt_of_le (Nat.two_pow_pos i) hpow))).2 hpow

/-- R98 (e): the highest set bit of `b` is the one that shifts `a` furthest. -/
theorem shiftAndAdd_exact_iff_log2 (a b : Byte) :
    (shiftAndAdd a b).toNat = a.toNat * b.toNat ↔ a = 0 ∨ b = 0 ∨ Nat.log2 a.toNat + Nat.log2 b.toNat ≤ 7 := by
  rw [shiftAndAdd_exact_iff]
  by_cases ha : a = 0
  · simp [ha]
  by_cases hb : b = 0
  · simp [hb]
  have hb0 : b.toNat ≠ 0 := fun h => hb ((byte_eq_zero_iff b).2 h)
  simp only [ha, hb, false_or, shift_lt_iff_log2 a ha]
  constructor
  · exact fun hall => hall _ (Nat.testBit_log2 hb0)
  · intro hlog i hbit
    have := getLsbD_le_log2 b i hbit
    omega

/-- Settles O14: the closed form bounds the high byte, is symmetric in its pairs of bits, and loses nothing where no term is
reduced. -/
theorem multiplierLowByteExact : Obligations.MultiplierLowByteExact := fun a b =>
  ⟨fun p => lowByte_mul8_toNat p a b, highByte_shiftAndAdd_le a b, shiftAndAdd_comm a b, shiftAndAdd_exact_iff_log2 a b⟩

end Sys2Proof.Machine
end

section
/-! The ALU called directly, by its integer opcodes and the unmapped ones (45_alu.md section 1, R131 to R135): what each leaves in
the result and the flags. -/

namespace Sys2Proof.Machine

/-! ### Flags of a result -/

theorem zeroOf_eq_decide (w : Wide) : zeroOf w = decide (w.toNat % 256 = 0) := by
  rw [zeroOf, Bool.eq_iff_iff, decide_eq_true_iff, decide_eq_true_iff, byte_eq_zero_iff, lowByte_toNat]

/-- R136 by bits: the low byte is 0 just where its eight bits are. -/
theorem zeroOf_iff_bits (w : Wide) : zeroOf w = true ↔ ∀ k, k < 8 → w.getLsbD k = false := by
  rw [zeroOf, decide_eq_true_iff]
  constructor
  · intro hzero k hk
    have hbit : (lowByte w).getLsbD k = false := by rw [hzero]; exact BitVec.getLsbD_zero
    simpa [lowByte, hk] using hbit
  · intro hbits
    apply BitVec.eq_of_getLsbD_eq
    intro k hk
    simp [lowByte, hk, hbits k hk]

theorem zext16_toNat (v : Byte) : (zext16 v).toNat = v.toNat := by
  have hv : v.toNat < 256 := v.isLt
  simp only [zext16, BitVec.toNat_setWidth]
  omega

theorem flagsAfter_zext16 (v : Byte) (c o : Bit) :
    flagsAfter (zext16 v) c o = { carry := c, zero := decide (v = 0), overflow := o, sign := v.getLsbD 7 } := by
  rw [flagsAfter, zeroOf_zext16, signOf_zext16]

/-! ### Integer operations -/

theorem sub8_result_eq_zero_iff (p : Config.Params) (a b : Byte) : (sub8 p a b).result = 0 ↔ a = b := by
  have hval := sub8_result_toNat p a b
  have ha : a.toNat < 256 := a.isLt
  have hb : b.toNat < 256 := b.isLt
  rw [byte_eq_zero_iff, BitVec.toNat_eq (x := a)]
  omega

theorem div_eq_zero_iff_bytes (a b : Byte) : a.toNat / b.toNat = 0 ↔ b = 0 ∨ a.toNat < b.toNat := by
  rw [Nat.div_eq_zero_iff, byte_eq_zero_iff]

/-- What writes `overflow`: ADD and ALU_ADD only (R131, R138; D20). -/
theorem execState_overflow (i : Instr) (s : State) (hadd : ∀ d x y, i ≠ .add d x y) (halu : ∀ x y, i ≠ .aluAdd x y) :
    (execState i s).alu.flags.overflow = s.alu.flags.overflow := by
  cases i with
  | add d x y => exact absurd rfl (hadd d x y)
  | aluAdd x y => exact absurd rfl (halu x y)
  | sub | mul | mov | aluSub | aluMul | aluDiv | aluFadd | aluFmul | aluNop6 | aluNop7 => rfl

/-- Settles O16: the adder's outputs are the ALU's, and no other instruction's record names a new overflow. -/
theorem aluAddOutcome : Obligations.AluAddOutcome := by
  refine ⟨fun a b s => ?_, fun i s t hadd halu h => ?_⟩
  · refine ⟨_, exec_aluAdd_eq a b s, rfl, ?_, flagsAfter_zext16 _ _ _, rfl⟩
    exact (zext16_toNat _).trans (rca8_sum_toNat a b)
  · rw [eq_execState_of_exec h, execState_overflow i s hadd halu]

/-- Settles O17: the subtractor's outputs, its borrow output being the raw carry under the polarity the spec takes. -/
theorem aluSubOutcome : Obligations.AluSubOutcome := by
  intro a b s
  refine ⟨_, exec_aluSub_eq a b s, ?result, ?flags, rfl⟩
  case result =>
    rw [State.afterAlu_alu, zext16_toNat, sub8_result_toNat]
  case flags =>
    have hborrow : (sub8 Config.params a b).borrowOut = decide (b.toNat ≤ a.toNat) := sub8_borrowOut _ a b
    rw [State.afterAlu_alu, flagsAfter, hborrow, zeroOf_zext16, decide_eq_decide.2 (sub8_result_eq_zero_iff _ a b)]
    rfl

/-- Settles O18: the truncating product, whose low byte is exact, so it is zero just where the exact product is one of 256. -/
theorem aluMulOutcome : Obligations.AluMulOutcome := by
  intro a b s
  refine ⟨_, exec_aluMul_eq a b s, multiplierClosedForm a b, ?flags, rfl⟩
  case flags =>
    rw [State.afterAlu_alu, flagsAfter, zeroOf_eq_decide, shiftAndAdd_mod]
    rfl

/-- Settles O19: quotient and remainder as the two digits of the result, for a zero divisor 0 and the dividend. -/
theorem aluDivOutcome : Obligations.AluDivOutcome := by
  intro a b s
  refine ⟨_, exec_aluDiv_eq a b s, ?result, ?flags, rfl⟩
  case result =>
    rw [State.afterAlu_alu, lowFirst_toNat, div8_quotient_toNat, div8_remainder_toNat]
    split
    · rename_i hb; simp [hb]
    · rfl
  case flags =>
    rw [State.afterAlu_alu, flagsAfter, div8_divByZero, zeroOf, lowByte_lowFirst]
    simp only [byte_eq_zero_iff (div8 a b).quotient, div8_quotient_toNat, div_eq_zero_iff_bytes]
    rfl

/-- Settles O22: both unmapped opcodes write back the state's own result, carry and overflow. -/
theorem aluUnmappedOutcome : Obligations.AluUnmappedOutcome := by
  intro a b c d s
  refine ⟨_, exec_aluNop6_eq a b s, exec_aluNop7_eq c d s, rfl, ?flags, rfl, ?unchanged⟩
  case flags =>
    rw [State.afterAlu_alu, flagsAfter, zeroOf_eq_decide]
    rfl
  case unchanged =>
    intro hzero hsign
    rw [State.afterAlu_alu, flagsAfter, zeroOf_eq_decide, signOf, ← hzero, ← hsign]

end Sys2Proof.Machine
end

section
/-! The float8 byte and its values (44_fpu.md section 2, 30_encoding.md section 3, R53, R112, R113): the fields under the layout the spec
takes (D13, log 12) as digits of the byte, and the value they stand for. -/

namespace Sys2Proof.Machine

/-! ### The byte's fields -/

theorem weigh_testBit (n i k : Nat) : weigh (n.testBit i) k = 2 ^ k * (n / 2 ^ i % 2) := by
  rw [Nat.testBit_eq_decide_div_mod_eq]
  rcases Nat.mod_two_eq_zero_or_one (n / 2 ^ i) with hbit | hbit <;> simp [weigh, hbit]

/-- The fields of a byte under the layout the spec takes. -/
def byteFields (b : Byte) : Float8 := float8Fields Config.params.float8Layout b

theorem byteFields_sign (b : Byte) : (byteFields b).sign = decide (128 ≤ b.toNat) :=
  signBit_eq_decide b

theorem byteFields_exponent (b : Byte) : (byteFields b).exponent = b.toNat / 16 % 8 := by
  simp only [byteFields, float8Fields, Config.params, Config.signExponentMantissa, BitVec.getLsbD, weigh_testBit]
  omega

theorem byteFields_mantissa (b : Byte) : (byteFields b).mantissa = b.toNat % 16 := by
  simp only [byteFields, float8Fields, Config.params, Config.signExponentMantissa, BitVec.getLsbD, weigh_testBit]
  omega

/-- The byte of the given fields: `128*sign + 16*E + M`, either number reduced to its field. -/
theorem float8Byte_toNat (f : Float8) :
    (float8Byte Config.params.float8Layout f).toNat =
      (if f.sign then 128 else 0) + 16 * (f.exponent % 8) + f.mantissa % 16 := by
  have hsign : weigh f.sign 7 = if f.sign then 128 else 0 := rfl
  have hsign' : weigh f.sign 7 ≤ 128 := by rw [hsign]; split <;> omega
  have he : weigh (f.exponent.testBit 2) 6 + weigh (f.exponent.testBit 1) 5 + weigh (f.exponent.testBit 0) 4 =
      16 * (f.exponent % 8) := by
    simp only [weigh_testBit]
    omega
  have hm : weigh (f.mantissa.testBit 3) 3 + weigh (f.mantissa.testBit 2) 2 + weigh (f.mantissa.testBit 1) 1 +
      weigh (f.mantissa.testBit 0) 0 = f.mantissa % 16 := by
    simp only [weigh_testBit]
    omega
  rw [float8Byte, BitVec.toNat_ofNat, ← hsign, ← he, ← hm]
  refine (Nat.mod_eq_of_lt ?_).trans ?_ <;> simp only [Config.params, Config.signExponentMantissa] <;> omega

/-- The fields fit the byte. -/
structure Float8.Fits (f : Float8) : Prop where
  exponent : f.exponent < 8
  mantissa : f.mantissa < 16

theorem byteFields_fits (b : Byte) : (byteFields b).Fits where
  exponent := byteFields_exponent b ▸ Nat.mod_lt _ (by decide)
  mantissa := byteFields_mantissa b ▸ Nat.mod_lt _ (by decide)

theorem Float8.eq_of_fields {f g : Float8} (hs : f.sign = g.sign) (he : f.exponent = g.exponent)
    (hm : f.mantissa = g.mantissa) : f = g := by
  cases f
  cases g
  exact (Float8.mk.injEq _ _ _ _ _ _).mpr ⟨hs, he, hm⟩

theorem byteFields_float8Byte (f : Float8) (h : f.Fits) : byteFields (float8Byte Config.params.float8Layout f) = f := by
  have he := h.exponent
  have hm := h.mantissa
  have hbyte := float8Byte_toNat f
  refine Float8.eq_of_fields ?_ ?_ ?_
  · rw [byteFields_sign, hbyte]
    cases f.sign with
    | true => exact decide_eq_true (by rw [if_pos rfl]; omega)
    | false => exact decide_eq_false (by rw [if_neg Bool.false_ne_true]; omega)
  · rw [byteFields_exponent, hbyte]
    split <;> omega
  · rw [byteFields_mantissa, hbyte]
    split <;> omega

theorem float8Byte_byteFields (b : Byte) : float8Byte Config.params.float8Layout (byteFields b) = b := by
  apply BitVec.eq_of_toNat_eq
  have hb : b.toNat < 256 := b.isLt
  rw [float8Byte_toNat, byteFields_sign, byteFields_exponent, byteFields_mantissa]
  split
  · rename_i hsign
    have := of_decide_eq_true hsign
    omega
  · rename_i hsign
    have := of_decide_eq_false (Bool.eq_false_iff.2 hsign)
    omega

/-! ### Values -/

theorem pow2_eq_zpow (k : Int) : pow2 k = (2 : Rat) ^ k := by
  cases k with
  | ofNat e => simp [pow2]
  | negSucc e => simp [pow2, zpow_negSucc]

theorem fpuParse_value (b : Byte) : (fpuParse Config.params b).value = float8Value (byteFields b) := rfl

theorem float8Value_zero (f : Float8) (h : f.exponent = 0) : float8Value f = .finite 0 :=
  if_pos h

theorem float8Value_infinite (f : Float8) (h : f.exponent = 7) : float8Value f = .infinite f.sign := by
  simp [float8Value, h]

/-- The magnitude of a finite non-zero encoding. -/
def Float8.magnitude (f : Float8) : Rat := (1 + (f.mantissa : Rat) / 16) * (2 : Rat) ^ ((f.exponent : Int) - 3)

/-- The signed value of a finite non-zero encoding. -/
def Float8.value (f : Float8) : Rat := if f.sign then -f.magnitude else f.magnitude

theorem float8Value_finite (f : Float8) (h0 : f.exponent ≠ 0) (h7 : f.exponent ≠ 7) :
    float8Value f = .finite f.value := by
  simp only [float8Value, h0, h7, if_false, pow2_eq_zpow, Float8.value, Float8.magnitude]

theorem Float8.magnitude_pos (f : Float8) : 0 < f.magnitude := by
  unfold Float8.magnitude
  positivity

theorem Float8.abs_value (f : Float8) : |f.value| = f.magnitude := by
  unfold Float8.value
  split
  · rw [abs_neg, abs_of_pos f.magnitude_pos]
  · exact abs_of_pos f.magnitude_pos

theorem Float8.value_neg_iff (f : Float8) : f.value < 0 ↔ f.sign = true := by
  have hpos := f.magnitude_pos
  unfold Float8.value
  split
  · simp [*]
  · simp [*, hpos.le]

theorem Float8.value_ne_zero (f : Float8) : f.value ≠ 0 :=
  abs_pos.1 (f.abs_value.symm ▸ f.magnitude_pos)

theorem Float8.value_pos_iff (f : Float8) : 0 < f.value ↔ f.sign = false := by
  rw [← Bool.not_eq_true, ← f.value_neg_iff, not_lt]
  exact ⟨le_of_lt, fun hle => lt_of_le_of_ne hle f.value_ne_zero.symm⟩

/-- Settles O31: the fields are digits of the byte, and the sign bit is a power of -1. -/
theorem parseMeaning : Obligations.ParseMeaning := by
  intro b
  have he := byteFields_exponent b
  refine ⟨?isZero, ?isInfinity, ?zero, ?infinite, ?finite⟩
  case isZero => rw [← he]; rfl
  case isInfinity => rw [← he]; rfl
  case zero => exact fun h => float8Value_zero _ (he.trans h)
  case infinite => intro h; rw [fpuParse_value, float8Value_infinite _ (he.trans h), byteFields_sign]
  case finite =>
    intro hlow hhigh
    rw [fpuParse_value, float8Value_finite _ (by omega) (by omega), Float8.value, byteFields_sign, Float8.magnitude,
      byteFields_mantissa, he]
    have hb : b.toNat < 256 := b.isLt
    rcases Nat.lt_or_ge b.toNat 128 with hsign | hsign
    · have hdigit : b.toNat / 128 = 0 := by omega
      simp [hdigit, Nat.not_le.2 hsign]
    · have hdigit : b.toNat / 128 = 1 := by omega
      rw [hdigit, decide_eq_true hsign, if_pos rfl, pow_one, neg_one_mul, neg_mul]

end Sys2Proof.Machine
end

section
/-! The encoder's logarithm and fraction (44_fpu.md section 3, R115, R116; exact by D15, log 21). -/

namespace Sys2Proof.Machine

/-! ### flog2 -/

theorem pow2Le_iff (k : Int) (n d : Nat) (hd : 0 < d) : pow2Le k n d = true ↔ (2 : Rat) ^ k ≤ (n : Rat) / d := by
  have hd' : (0 : Rat) < d := by exact_mod_cast hd
  rw [le_div_iff₀ hd']
  cases k with
  | ofNat e =>
    simp only [pow2Le, decide_eq_true_iff, Int.ofNat_eq_natCast, zpow_natCast]
    exact_mod_cast Iff.rfl
  | negSucc e =>
    simp only [pow2Le, decide_eq_true_iff, zpow_negSucc]
    rw [inv_mul_le_iff₀ (by positivity), mul_comm]
    exact_mod_cast Iff.rfl

theorem natCast_log2_bounds (n : Nat) (hn : n ≠ 0) :
    (2 : Rat) ^ (Nat.log2 n : Int) ≤ n ∧ (n : Rat) < (2 : Rat) ^ ((Nat.log2 n : Int) + 1) := by
  constructor
  · rw [zpow_natCast]
    exact_mod_cast Nat.log2_self_le hn
  · exact_mod_cast (Nat.lt_log2_self : n < 2 ^ (Nat.log2 n + 1))

/-- The two bit lengths give the logarithm up to one: the comparison that follows decides. -/
theorem div_log2_bounds (n d : Nat) (hn : n ≠ 0) (hd : d ≠ 0) :
    (2 : Rat) ^ ((Nat.log2 n : Int) - Nat.log2 d - 1) < (n : Rat) / d ∧
      (n : Rat) / d < (2 : Rat) ^ ((Nat.log2 n : Int) - Nat.log2 d + 1) := by
  obtain ⟨hnlow, hnhigh⟩ := natCast_log2_bounds n hn
  obtain ⟨hdlow, hdhigh⟩ := natCast_log2_bounds d hd
  have hd' : (0 : Rat) < d := by exact_mod_cast Nat.pos_of_ne_zero hd
  have hpos : (0 : Rat) < (2 : Rat) ^ (Nat.log2 d : Int) := by positivity
  constructor
  · rw [lt_div_iff₀ hd', sub_sub, zpow_sub₀ two_ne_zero, div_mul_eq_mul_div, div_lt_iff₀ (by positivity)]
    calc (2 : Rat) ^ (Nat.log2 n : Int) * d
        < (2 : Rat) ^ (Nat.log2 n : Int) * (2 : Rat) ^ ((Nat.log2 d : Int) + 1) :=
          mul_lt_mul_of_pos_left hdhigh (by positivity)
      _ ≤ n * (2 : Rat) ^ ((Nat.log2 d : Int) + 1) := mul_le_mul_of_nonneg_right hnlow (by positivity)
  · rw [div_lt_iff₀ hd', sub_add_eq_add_sub, zpow_sub₀ two_ne_zero, div_mul_eq_mul_div, lt_div_iff₀ hpos]
    calc (n : Rat) * (2 : Rat) ^ (Nat.log2 d : Int)
        < (2 : Rat) ^ ((Nat.log2 n : Int) + 1) * (2 : Rat) ^ (Nat.log2 d : Int) := mul_lt_mul_of_pos_right hnhigh hpos
      _ ≤ (2 : Rat) ^ ((Nat.log2 n : Int) + 1) * d := mul_le_mul_of_nonneg_left hdlow (by positivity)

theorem flog2_bounds (x : Rat) (hx : 0 < x) : (2 : Rat) ^ flog2 x ≤ x ∧ x < (2 : Rat) ^ (flog2 x + 1) := by
  have hnum : 0 < x.num := Rat.num_pos.2 hx
  have hn : x.num.natAbs ≠ 0 := Int.natAbs_ne_zero.2 hnum.ne'
  have hfrac : (x.num.natAbs : Rat) / x.den = x := by
    rw [Nat.cast_natAbs, abs_of_pos hnum, Rat.num_div_den]
  obtain ⟨hlow, hhigh⟩ := div_log2_bounds x.num.natAbs x.den hn x.den_nz
  have hguess := pow2Le_iff ((Nat.log2 x.num.natAbs : Int) - Nat.log2 x.den) x.num.natAbs x.den x.den_pos
  rw [hfrac] at hlow hhigh hguess
  simp only [flog2]
  split
  · exact ⟨hguess.1 ‹_›, hhigh⟩
  · rw [sub_add_cancel]
    exact ⟨hlow.le, not_le.1 fun hle => ‹¬ _› (hguess.2 hle)⟩

/-- R115 as a threshold: `flog2 x` is at least `k` just from `2^k` on. -/
theorem le_flog2_iff (x : Rat) (hx : 0 < x) (k : Int) : k ≤ flog2 x ↔ (2 : Rat) ^ k ≤ x := by
  obtain ⟨hlow, hhigh⟩ := flog2_bounds x hx
  constructor
  · exact fun hk => (zpow_le_zpow_right₀ one_le_two hk).trans hlow
  · exact fun hk => Int.lt_add_one_iff.1 ((zpow_lt_zpow_iff_right₀ one_lt_two).1 (hk.trans_lt hhigh))

theorem flog2_eq_of_bounds (x : Rat) (l : Int) (hlow : (2 : Rat) ^ l ≤ x) (hhigh : x < (2 : Rat) ^ (l + 1)) :
    l = flog2 x := by
  have hx : 0 < x := lt_of_lt_of_le (by positivity) hlow
  have hle := (le_flog2_iff x hx l).2 hlow
  have hlt : ¬ l + 1 ≤ flog2 x := fun h => hhigh.not_ge ((le_flog2_iff x hx (l + 1)).1 h)
  omega

/-- Settles O32: the bounds, and that powers of two separate the exponents. -/
theorem floorLogIsUnique : Obligations.FloorLogIsUnique := fun x hx =>
  ⟨flog2_bounds x hx, flog2_eq_of_bounds x⟩

/-! ### Greedy extraction -/

/-- One extraction moves the bit's weight from the fraction to the mantissa, and what is left is below that weight. -/
theorem greedyStep_spec (m : Nat) (r : Rat) (i : Nat) (hi : i < 4) (hr : 0 ≤ r) (hr' : r < 1 / 2 ^ i) :
    ((greedyStep (m, r) i).1 : Rat) + 16 * (greedyStep (m, r) i).2 = m + 16 * r ∧
      0 ≤ (greedyStep (m, r) i).2 ∧ (greedyStep (m, r) i).2 < 1 / 2 ^ (i + 1) := by
  have hhalf : (1 : Rat) / 2 ^ i = 1 / 2 ^ (i + 1) + 1 / 2 ^ (i + 1) := by rw [pow_succ]; field_simp; norm_num
  have hweight : (2 : Rat) ^ (3 - i) = 16 * (1 / 2 ^ (i + 1)) := by
    interval_cases i <;> norm_num
  unfold greedyStep
  push_cast
  split
  · rename_i hle
    push_cast
    exact ⟨by rw [hweight]; ring, sub_nonneg.2 hle, by linarith⟩
  · rename_i hlt
    exact ⟨rfl, hr, not_le.1 hlt⟩

theorem foldl_greedyStep_spec (f : Rat) (hf : 0 ≤ f) (hf' : f < 1) (n : Nat) (hn : n ≤ 4) :
    (((List.range n).foldl greedyStep (0, f)).1 : Rat) + 16 * ((List.range n).foldl greedyStep (0, f)).2 = 16 * f ∧
      0 ≤ ((List.range n).foldl greedyStep (0, f)).2 ∧ ((List.range n).foldl greedyStep (0, f)).2 < 1 / 2 ^ n := by
  induction n with
  | zero => simp [hf, hf']
  | succ n ih =>
    obtain ⟨hsum, hlow, hhigh⟩ := ih (Nat.le_of_succ_le hn)
    rw [List.range_succ, List.foldl_append, List.foldl_cons, List.foldl_nil, ← hsum]
    exact greedyStep_spec _ _ n hn hlow hhigh

theorem greedy4_eq_floor (f : Rat) (hf : 0 ≤ f) (hf' : f < 1) : (greedy4 f : Int) = ⌊16 * f⌋ := by
  obtain ⟨hsum, hlow, hhigh⟩ := foldl_greedyStep_spec f hf hf' 4 le_rfl
  rw [eq_comm, Int.floor_eq_iff, ← hsum, greedy4]
  constructor
  · push_cast; linarith
  · push_cast; norm_num at hhigh; linarith

theorem greedy4_lt (f : Rat) (hf : 0 ≤ f) (hf' : f < 1) : greedy4 f < 16 := by
  have hfloor : ⌊16 * f⌋ < 16 := Int.floor_lt.2 (by push_cast; linarith)
  rw [← greedy4_eq_floor f hf hf'] at hfloor
  exact_mod_cast hfloor

/-- Settles O33: after four extractions less than a sixteenth is left. -/
theorem greedyTruncates : Obligations.GreedyTruncates := fun f hf hf' =>
  ⟨greedy4_eq_floor f hf hf', greedy4_lt f hf hf'⟩

end Sys2Proof.Machine
end

section
/-! `create_from_float` (44_fpu.md section 3, R114 to R120): the byte and the status of a value by its range, the round trip of the
finite non-zero bytes, and rounding toward zero. -/

namespace Sys2Proof.Machine

/-! ### The fields by range -/

/-- The fraction of a magnitude above its power of two. -/
theorem fraction_bounds (x : Rat) (hx : 0 < x) :
    0 ≤ x / (2 : Rat) ^ flog2 x - 1 ∧ x / (2 : Rat) ^ flog2 x - 1 < 1 := by
  obtain ⟨hlow, hhigh⟩ := flog2_bounds x hx
  have hpow : (0 : Rat) < (2 : Rat) ^ flog2 x := by positivity
  rw [zpow_add_one₀ two_ne_zero, mul_comm] at hhigh
  have hone : 1 ≤ x / (2 : Rat) ^ flog2 x := (one_le_div hpow).2 hlow
  have htwo : x / (2 : Rat) ^ flog2 x < 2 := (div_lt_iff₀ hpow).2 hhigh
  constructor <;> linarith

/-- R117: a magnitude below 1/4 has no exponent field above 0. -/
theorem encodedFields_small (q : Rat) (hq : q ≠ 0) (hsmall : |q| < 1 / 4) :
    encodedFields (.finite q) = { sign := decide (q < 0), exponent := 0, mantissa := 0 } := by
  have hlog : ¬ -2 ≤ flog2 |q| := by
    rw [le_flog2_iff _ (abs_pos.2 hq), not_le]
    exact hsmall.trans_eq (by norm_num)
  have hexp : flog2 |q| + 3 ≤ 0 := by omega
  simp only [encodedFields, hq, hexp, if_true, if_false]

/-- R117: a magnitude from 16 on has no exponent field below 7. -/
theorem encodedFields_large (q : Rat) (hlarge : 16 ≤ |q|) :
    encodedFields (.finite q) = { sign := decide (q < 0), exponent := 7, mantissa := 0 } := by
  have hpos : 0 < |q| := lt_of_lt_of_le (by norm_num) hlarge
  have hlog : 4 ≤ flog2 |q| := (le_flog2_iff _ hpos 4).2 (le_trans (by norm_num) hlarge)
  have hlow : ¬ flog2 |q| + 3 ≤ 0 := by omega
  have hhigh : 7 ≤ flog2 |q| + 3 := by omega
  simp only [encodedFields, abs_pos.1 hpos, hlow, hhigh, if_true, if_false]

theorem flog2_mem_range (x : Rat) (hlow : 1 / 4 ≤ x) (hhigh : x < 16) : -2 ≤ flog2 x ∧ flog2 x ≤ 3 := by
  have hx : 0 < x := lt_of_lt_of_le (by norm_num) hlow
  have h1 : -2 ≤ flog2 x := (le_flog2_iff x hx (-2)).2 (le_trans (by norm_num) hlow)
  have h2 : ¬ 4 ≤ flog2 x := by
    rw [le_flog2_iff x hx, not_le]
    exact hhigh.trans_eq (by norm_num)
  omega

theorem encodedFields_ordinary (q : Rat) (hlow : 1 / 4 ≤ |q|) (hhigh : |q| < 16) :
    encodedFields (.finite q) =
      { sign := decide (q < 0), exponent := (flog2 |q| + 3).toNat,
        mantissa := greedy4 (|q| / (2 : Rat) ^ flog2 |q| - 1) } := by
  have hpos : 0 < |q| := lt_of_lt_of_le (by norm_num) hlow
  obtain ⟨hlog, hlog'⟩ := flog2_mem_range |q| hlow hhigh
  have h1 : ¬ flog2 |q| + 3 ≤ 0 := by omega
  have h2 : ¬ 7 ≤ flog2 |q| + 3 := by omega
  simp only [encodedFields, abs_pos.1 hpos, h1, h2, if_false, pow2_eq_zpow]

theorem Float8.fits_of_mantissa_zero (sign : Bit) (e : Nat) (he : e < 8) :
    ({ sign := sign, exponent := e, mantissa := 0 } : Float8).Fits :=
  ⟨he, Nat.zero_lt_succ 15⟩

/-- Whatever the value, the fields fit the byte. -/
theorem encodedFields_fits (v : Qx) : (encodedFields v).Fits := by
  cases v with
  | infinite n => exact Float8.fits_of_mantissa_zero n 7 (by decide)
  | finite q =>
    by_cases hq : q = 0
    · subst hq; exact Float8.fits_of_mantissa_zero false 0 (by decide)
    by_cases hsmall : |q| < 1 / 4
    · rw [encodedFields_small q hq hsmall]; exact Float8.fits_of_mantissa_zero _ 0 (by decide)
    by_cases hlarge : 16 ≤ |q|
    · rw [encodedFields_large q hlarge]; exact Float8.fits_of_mantissa_zero _ 7 (by decide)
    have hlow := not_lt.1 hsmall
    have hhigh := not_le.1 hlarge
    rw [encodedFields_ordinary q hlow hhigh]
    obtain ⟨hf, hf'⟩ := fraction_bounds |q| (abs_pos.2 hq)
    obtain ⟨hlog, hlog'⟩ := flog2_mem_range |q| hlow hhigh
    exact ⟨by simp only; omega, greedy4_lt _ hf hf'⟩

/-! ### Byte and status -/

theorem fpuCreate_bits_toNat (k : Nat) (v : Qx) :
    (fpuCreate Config.params k v).bits.toNat =
      (if (encodedFields v).sign then 128 else 0) + 16 * (encodedFields v).exponent + (encodedFields v).mantissa := by
  obtain ⟨he, hm⟩ := encodedFields_fits v
  rw [fpuCreate_eq, fpuEncode, float8Byte_toNat, Nat.mod_eq_of_lt he, Nat.mod_eq_of_lt hm]

theorem byteFields_fpuCreate (k : Nat) (v : Qx) : byteFields (fpuCreate Config.params k v).bits = encodedFields v := by
  rw [fpuCreate_eq]
  exact byteFields_float8Byte _ (encodedFields_fits v)

/-- The status Bits of an output are those of its byte's exponent (R125). -/
structure FpuOut.StatusOfBits (o : FpuOut) : Prop where
  isZero : o.isZero = decide (o.bits.toNat / 16 % 8 = 0)
  isInfinity : o.isInfinity = decide (o.bits.toNat / 16 % 8 = 7)

theorem fpuCreate_status (k : Nat) (v : Qx) : (fpuCreate Config.params k v).StatusOfBits := by
  have he := byteFields_exponent (fpuCreate Config.params k v).bits
  rw [byteFields_fpuCreate] at he
  constructor <;> rw [← he, fpuCreate_eq] <;> rfl

theorem fpuIndeterminate_status (k : Nat) : (fpuIndeterminate Config.params k).StatusOfBits := by
  have he := byteFields_exponent (Config.freeByte k)
  constructor
  · exact congrArg (fun e => decide (e = 0)) he
  · exact congrArg (fun e => decide (e = 7)) he

theorem fpuFinish_status (k : Nat) (v : Option Qx) : (fpuFinish Config.params k v).StatusOfBits := by
  cases v with
  | some v => exact fpuCreate_status k v
  | none => exact fpuIndeterminate_status k

/-- Settles O34: each range fixes the fields, and the fields fix byte and status. -/
theorem encoderByRange : Obligations.EncoderByRange := by
  intro k
  refine ⟨rfl, ?infinite, ?small, ?large, ?ordinary⟩
  case infinite => intro n; cases n <;> rfl
  case small =>
    intro q hq hsmall
    rw [fpuCreate_eq, encodedFields_small q hq hsmall]
    split
    · rename_i hneg; rw [decide_eq_true hneg]; rfl
    · rename_i hpos; rw [decide_eq_false hpos]; rfl
  case large =>
    intro q hlarge
    rw [fpuCreate_eq, encodedFields_large q hlarge]
    split
    · rename_i hneg; rw [decide_eq_true hneg]; rfl
    · rename_i hpos; rw [decide_eq_false hpos]; rfl
  case ordinary =>
    intro q hlow hhigh
    have hpos : 0 < |q| := lt_of_lt_of_le (by norm_num) hlow
    obtain ⟨hlog, hlog'⟩ := flog2_mem_range |q| hlow hhigh
    obtain ⟨hf, hf'⟩ := fraction_bounds |q| hpos
    have hfields := encodedFields_ordinary q hlow hhigh
    have hexp : ((flog2 |q| + 3).toNat : Int) = flog2 |q| + 3 := Int.toNat_of_nonneg (by omega)
    refine ⟨?isZero, ?isInfinity, fpuCreate_draws k _, ?bits⟩
    case isZero =>
      rw [fpuCreate_eq, hfields]
      exact decide_eq_false (by simp only; omega)
    case isInfinity =>
      rw [fpuCreate_eq, hfields]
      exact decide_eq_false (by simp only; omega)
    case bits =>
      rw [fpuCreate_bits_toNat, hfields]
      push_cast
      rw [hexp, greedy4_eq_floor _ hf hf']
      simp

/-! ### Round trip -/

/-- The exponent and the fraction of a finite non-zero encoding's magnitude. -/
theorem flog2_magnitude (f : Float8) (h : f.Fits) : flog2 f.magnitude = (f.exponent : Int) - 3 := by
  have hm : (f.mantissa : Rat) < 16 := by exact_mod_cast h.mantissa
  have hpow : (0 : Rat) < (2 : Rat) ^ ((f.exponent : Int) - 3) := by positivity
  refine (flog2_eq_of_bounds _ _ ?_ ?_).symm
  · exact le_mul_of_one_le_left hpow.le (le_add_of_nonneg_right (by positivity))
  · rw [zpow_add_one₀ two_ne_zero, mul_comm _ (2 : Rat)]
    exact mul_lt_mul_of_pos_right (by linarith) hpow

theorem greedy4_sixteenths (m : Nat) (hm : m < 16) : greedy4 ((m : Rat) / 16) = m := by
  have hm' : (m : Rat) < 16 := by exact_mod_cast hm
  have hfloor := greedy4_eq_floor ((m : Rat) / 16) (by positivity) (by linarith)
  rw [mul_div_cancel₀ _ (by norm_num : (16 : Rat) ≠ 0), Int.floor_natCast] at hfloor
  exact_mod_cast hfloor

theorem Float8.magnitude_bounds (f : Float8) (h : f.Fits) (h0 : f.exponent ≠ 0) (h7 : f.exponent ≠ 7) :
    1 / 4 ≤ f.magnitude ∧ f.magnitude < 16 := by
  have he := h.exponent
  have hlog := flog2_magnitude f h
  constructor
  · have := (le_flog2_iff _ f.magnitude_pos (-2)).1 (by omega)
    exact le_trans (by norm_num) this
  · have := mt (le_flog2_iff _ f.magnitude_pos 4).2 (by omega)
    exact (not_le.1 this).trans_eq (by norm_num)

/-- Encoding a finite non-zero encoding's value gives its fields back. -/
theorem encodedFields_float8Value (f : Float8) (h : f.Fits) (h0 : f.exponent ≠ 0) (h7 : f.exponent ≠ 7) :
    encodedFields (float8Value f) = f := by
  obtain ⟨hlow, hhigh⟩ := f.magnitude_bounds h h0 h7
  have hfraction : f.magnitude / (2 : Rat) ^ ((f.exponent : Int) - 3) - 1 = (f.mantissa : Rat) / 16 := by
    rw [Float8.magnitude, mul_div_assoc, div_self (by positivity), mul_one, add_sub_cancel_left]
  rw [← f.abs_value] at hlow hhigh
  rw [float8Value_finite f h0 h7, encodedFields_ordinary _ hlow hhigh, f.abs_value, flog2_magnitude f h, hfraction,
    greedy4_sixteenths _ h.mantissa]
  refine Float8.eq_of_fields ?_ ?_ rfl
  · simp only [f.value_neg_iff]
    exact Bool.decide_eq_true
  · simp only [sub_add_cancel, Int.toNat_natCast]

/-- Settles O35: zeros and infinities lose their mantissa, every other byte is the byte of its own fields. -/
theorem byteRoundTrip : Obligations.ByteRoundTrip := by
  intro b k
  have he := byteFields_exponent b
  rw [fpuParse_value]
  split
  · rename_i h0
    rw [float8Value_zero _ (he.trans h0)]
    rfl
  · rename_i h0
    split
    · rename_i h7
      rw [float8Value_infinite _ (he.trans h7), byteFields_sign]
      split
      · rename_i hsign; rw [decide_eq_true hsign]; rfl
      · rename_i hsign; rw [decide_eq_false hsign]; rfl
    · rename_i h7
      rw [fpuCreate_eq, encodedFields_float8Value _ (byteFields_fits b) (he ▸ h0) (he ▸ h7)]
      exact float8Byte_byteFields b

end Sys2Proof.Machine
end

section
/-! Rounding toward zero (44_fpu.md section 3): the encoded magnitude is the largest representable one not above the given. -/

namespace Sys2Proof.Machine

/-- A magnitude with its fraction cut to four bits. -/
def truncatedMagnitude (x : Rat) : Rat :=
  (1 + (⌊16 * (x / (2 : Rat) ^ flog2 x - 1)⌋ : Rat) / 16) * (2 : Rat) ^ flog2 x

theorem truncatedMagnitude_le (x : Rat) : truncatedMagnitude x ≤ x := by
  have hpow : (0 : Rat) < (2 : Rat) ^ flog2 x := by positivity
  have hfloor := Int.floor_le (16 * (x / (2 : Rat) ^ flog2 x - 1))
  have hle : 1 + (⌊16 * (x / (2 : Rat) ^ flog2 x - 1)⌋ : Rat) / 16 ≤ x / (2 : Rat) ^ flog2 x := by linarith
  exact (le_div_iff₀ hpow).1 hle

/-- An encoding's magnitude has its own power of two and its own sixteenths, so it cannot lie between the two. -/
theorem Float8.magnitude_le_truncated (g : Float8) (hg : g.Fits) (x : Rat) (hle : g.magnitude ≤ x) :
    g.magnitude ≤ truncatedMagnitude x := by
  have hx : 0 < x := g.magnitude_pos.trans_le hle
  have hpow : (0 : Rat) < (2 : Rat) ^ flog2 x := by positivity
  obtain ⟨hglow, hghigh⟩ := flog2_bounds g.magnitude g.magnitude_pos
  have hlog : flog2 g.magnitude ≤ flog2 x := (le_flog2_iff x hx _).2 (hglow.trans hle)
  rcases hlog.lt_or_eq with hlt | heq
  · have hfraction := (fraction_bounds x hx).1
    have hfloor : (0 : Rat) ≤ (⌊16 * (x / (2 : Rat) ^ flog2 x - 1)⌋ : Rat) := by
      exact_mod_cast Int.floor_nonneg.2 (by linarith)
    calc g.magnitude
        ≤ (2 : Rat) ^ (flog2 g.magnitude + 1) := hghigh.le
      _ ≤ (2 : Rat) ^ flog2 x := zpow_le_zpow_right₀ one_le_two hlt
      _ ≤ truncatedMagnitude x := le_mul_of_one_le_left hpow.le (by linarith)
  · have hmag : g.magnitude = (1 + (g.mantissa : Rat) / 16) * (2 : Rat) ^ flog2 x := by
      rw [← heq, flog2_magnitude g hg, Float8.magnitude]
    rw [hmag] at hle ⊢
    have hsixteenths := (le_div_iff₀ hpow).2 hle
    have hfloor : (g.mantissa : Int) ≤ ⌊16 * (x / (2 : Rat) ^ flog2 x - 1)⌋ :=
      Int.le_floor.2 (by push_cast; linarith)
    have hfloor' : (g.mantissa : Rat) ≤ (⌊16 * (x / (2 : Rat) ^ flog2 x - 1)⌋ : Rat) := by exact_mod_cast hfloor
    exact mul_le_mul_of_nonneg_right (by linarith) hpow.le

theorem encodedFields_magnitude (q : Rat) (hlow : 1 / 4 ≤ |q|) (hhigh : |q| < 16) :
    (encodedFields (.finite q)).magnitude = truncatedMagnitude |q| := by
  have hpos : 0 < |q| := lt_of_lt_of_le (by norm_num) hlow
  obtain ⟨hlog, _⟩ := flog2_mem_range |q| hlow hhigh
  obtain ⟨hf, hf'⟩ := fraction_bounds |q| hpos
  have hmantissa : ((greedy4 (|q| / (2 : Rat) ^ flog2 |q| - 1) : Nat) : Rat) =
      (⌊16 * (|q| / (2 : Rat) ^ flog2 |q| - 1)⌋ : Rat) := by
    rw [← greedy4_eq_floor _ hf hf', Int.cast_natCast]
  rw [encodedFields_ordinary q hlow hhigh, Float8.magnitude, truncatedMagnitude, ← hmantissa,
    Int.toNat_of_nonneg (by omega), add_sub_cancel_right]

/-- A byte with a finite value stands for 0 or for the signed value of its fields. -/
theorem byte_value_cases (b : Byte) (w : Rat) (h : (fpuParse Config.params b).value = .finite w) :
    w = 0 ∨ w = (byteFields b).value := by
  rw [fpuParse_value] at h
  by_cases h0 : (byteFields b).exponent = 0
  · rw [float8Value_zero _ h0] at h
    exact .inl (Qx.finite.inj h).symm
  by_cases h7 : (byteFields b).exponent = 7
  · rw [float8Value_infinite _ h7] at h
    cases h
  rw [float8Value_finite _ h0 h7] at h
  exact .inr (Qx.finite.inj h).symm

/-- Settles O36: the encoded magnitude is the truncated one, and no encoding's magnitude lies between that and the given one. -/
theorem encoderRoundsTowardZero : Obligations.EncoderRoundsTowardZero := by
  intro q k hlow hhigh
  have hq : q ≠ 0 := abs_pos.1 (lt_of_lt_of_le (by norm_num) hlow)
  obtain ⟨hlog, hlog'⟩ := flog2_mem_range |q| hlow hhigh
  have hfields := encodedFields_ordinary q hlow hhigh
  have hmagnitude := encodedFields_magnitude q hlow hhigh
  refine ⟨(encodedFields (.finite q)).value, ?parsed, ?notAbove, ?sign, Float8.value_ne_zero _, ?nearest⟩
  case parsed =>
    rw [fpuParse_value, byteFields_fpuCreate]
    exact float8Value_finite _ (by rw [hfields]; simp only; omega) (by rw [hfields]; simp only; omega)
  case notAbove =>
    rw [Float8.abs_value, hmagnitude]
    exact truncatedMagnitude_le |q|
  case sign =>
    rw [Float8.value_pos_iff, hfields, decide_eq_false_iff_not, not_lt]
    exact ⟨fun hle => lt_of_le_of_ne hle hq.symm, le_of_lt⟩
  case nearest =>
    intro b w hw _ hle
    rw [Float8.abs_value, hmagnitude]
    rcases byte_value_cases b w hw with rfl | rfl
    · rw [abs_zero, ← hmagnitude]
      exact (Float8.magnitude_pos _).le
    · rw [Float8.abs_value] at hle ⊢
      exact Float8.magnitude_le_truncated _ (byteFields_fits b) _ hle

end Sys2Proof.Machine
end

section
/-! Sums and products (44_fpu.md section 4, R121 to R125): the indeterminate operands, and the float unit's operations called directly
and by the ALU (45_alu.md section 3, R139, R140). -/

namespace Sys2Proof.Machine

/-! ### Infinities -/

theorem qxAdd_eq_none_iff (u v : Qx) :
    qxAdd u v = none ↔ ∃ s t, u = .infinite s ∧ v = .infinite t ∧ s ≠ t := by
  cases u with
  | finite x => cases v <;> simp [qxAdd]
  | infinite s =>
    cases v with
    | finite y => simp [qxAdd]
    | infinite t => by_cases hst : s = t <;> simp [qxAdd, hst]

theorem qxMul_eq_none_iff (u v : Qx) :
    qxMul u v = none ↔ (∃ s, u = .infinite s ∧ v = .finite 0) ∨ (u = .finite 0 ∧ ∃ t, v = .infinite t) := by
  cases u with
  | finite x =>
    cases v with
    | finite y => simp [qxMul]
    | infinite t => by_cases hx : x = 0 <;> simp [qxMul, hx]
  | infinite s =>
    cases v with
    | finite y => by_cases hy : y = 0 <;> simp [qxMul, hy]
    | infinite t => simp [qxMul]

theorem float8Value_eq_infinite_iff (f : Float8) (s : Bit) : float8Value f = .infinite s ↔ f.exponent = 7 ∧ f.sign = s := by
  by_cases h7 : f.exponent = 7
  · simp [float8Value_infinite f h7, h7]
  · by_cases h0 : f.exponent = 0
    · simp [float8Value_zero f h0, h0]
    · simp [float8Value_finite f h0 h7, h7]

theorem float8Value_eq_zero_iff (f : Float8) : float8Value f = .finite 0 ↔ f.exponent = 0 := by
  by_cases h0 : f.exponent = 0
  · simp [float8Value_zero f h0, h0]
  · by_cases h7 : f.exponent = 7
    · simp [float8Value_infinite f h7, h7]
    · simp [float8Value_finite f h0 h7, h0, f.value_ne_zero]

/-- The top bit as a digit. -/
theorem sign_ne_iff (a b : Byte) : (byteFields a).sign ≠ (byteFields b).sign ↔ a.toNat / 128 ≠ b.toNat / 128 := by
  have ha : a.toNat < 256 := a.isLt
  have hb : b.toNat < 256 := b.isLt
  rw [byteFields_sign, byteFields_sign, ne_eq, decide_eq_decide]
  omega

/-- Settles O37: the indeterminate forms by their values, and which bytes have those values. -/
theorem infinityArithmetic : Obligations.InfinityArithmetic := by
  refine ⟨fun x m n => ⟨rfl, rfl, if_pos rfl, fun hx => ⟨if_neg hx, ?productSign⟩, rfl⟩, fun a b => ?sum,
    fun a b => ?product⟩
  case productSign => rw [Bool.xor_comm]; exact if_neg hx
  case sum =>
    simp only [qxAdd_eq_none_iff, fpuParse_value, float8Value_eq_infinite_iff, ← byteFields_exponent, ← sign_ne_iff]
    constructor
    · rintro ⟨s, t, ⟨ha, rfl⟩, ⟨hb, rfl⟩, hne⟩
      exact ⟨ha, hb, hne⟩
    · rintro ⟨ha, hb, hne⟩
      exact ⟨_, _, ⟨ha, rfl⟩, ⟨hb, rfl⟩, hne⟩
  case product =>
    simp only [qxMul_eq_none_iff, fpuParse_value, float8Value_eq_infinite_iff, float8Value_eq_zero_iff, ← byteFields_exponent]
    constructor
    · rintro (⟨s, ⟨ha, _⟩, hb⟩ | ⟨ha, t, hb, _⟩)
      · exact .inl ⟨ha, hb⟩
      · exact .inr ⟨ha, hb⟩
    · rintro (⟨ha, hb⟩ | ⟨ha, hb⟩)
      · exact .inl ⟨_, ⟨ha, rfl⟩, hb⟩
      · exact .inr ⟨ha, _, hb, rfl⟩

/-! ### Direct calls -/

theorem fpuAdd_of_some (k : Nat) (a b : Byte) (v : Qx)
    (h : qxAdd (fpuParse Config.params a).value (fpuParse Config.params b).value = some v) :
    fpuAdd Config.params k a b = fpuCreate Config.params k v := by
  rw [fpuAdd, h]
  rfl

theorem fpuMultiply_of_some (k : Nat) (a b : Byte) (v : Qx)
    (h : qxMul (fpuParse Config.params a).value (fpuParse Config.params b).value = some v) :
    fpuMultiply Config.params k a b = fpuCreate Config.params k v := by
  rw [fpuMultiply, h]
  rfl

theorem fpuAdd_status (k : Nat) (a b : Byte) : (fpuAdd Config.params k a b).StatusOfBits :=
  fpuFinish_status k _

theorem fpuMultiply_status (k : Nat) (a b : Byte) : (fpuMultiply Config.params k a b).StatusOfBits :=
  fpuFinish_status k _

/-- The status that an output leaves, by its byte. -/
def statusOfByte (f : Byte) : FpuStatus :=
  { isZero := decide (f.toNat / 16 % 8 = 0), isInfinity := decide (f.toNat / 16 % 8 = 7) }

theorem State.setFpu_eq (s : State) (o : FpuOut) (h : o.StatusOfBits) :
    s.setFpu o = { s with fpu := statusOfByte o.bits, draws := o.draws } := by
  rw [statusOfByte, ← h.isZero, ← h.isInfinity]
  rfl

/-- Settles O38: each operation keeps its output's status, which for an encoded byte is that of the byte's exponent. -/
theorem fpuCallsKeepStatus : Obligations.FpuCallsKeepStatus := by
  intro s rest
  refine ⟨fun b h => step_op s _ rest h, fun v h => ?create, fun a b h => ?add, fun a b h => ?multiply⟩
  case create =>
    have hstatus := fpuCreate_status s.draws v
    refine ⟨(fpuCreate Config.params s.draws v).bits, (fpuCreate Config.params s.draws v).draws, ?_, rfl⟩
    rw [step_op s _ rest h, ← hstatus.isZero, ← hstatus.isInfinity]
    rfl
  case add =>
    have hstatus := fpuAdd_status s.draws a b
    refine ⟨(fpuAdd Config.params s.draws a b).bits, (fpuAdd Config.params s.draws a b).draws, ?_, rfl,
      fun v hv => by rw [fpuAdd_of_some _ a b v hv]⟩
    rw [step_op s _ rest h, ← hstatus.isZero, ← hstatus.isInfinity]
    rfl
  case multiply =>
    have hstatus := fpuMultiply_status s.draws a b
    refine ⟨(fpuMultiply Config.params s.draws a b).bits, (fpuMultiply Config.params s.draws a b).draws, ?_, rfl,
      fun v hv => by rw [fpuMultiply_of_some _ a b v hv]⟩
    rw [step_op s _ rest h, ← hstatus.isZero, ← hstatus.isInfinity]
    rfl

/-! ### The ALU's float paths -/

/-- Settles O20: the float unit's byte is the result, its status the unit's, and the byte encodes a determined sum. -/
theorem aluFaddOutcome : Obligations.AluFaddOutcome := by
  intro a b s
  have hencodes : ∀ v, qxAdd (fpuParse Config.params a).value (fpuParse Config.params b).value = some v →
      (fpuAdd Config.params s.draws a b).bits = (fpuCreate Config.params s.draws v).bits :=
    fun v hv => by rw [fpuAdd_of_some _ a b v hv]
  refine ⟨_, (fpuAdd Config.params s.draws a b).bits, exec_aluFadd_eq a b s, rfl, flagsAfter_zext16 _ _ _, ?status, rfl,
    fun x y hx hy => hencodes _ (by rw [hx, hy]; rfl), hencodes⟩
  case status => rw [State.setFpu_eq s _ (fpuAdd_status _ a b)]; rfl

/-- Settles O21: as for float-add, with the product. -/
theorem aluFmulOutcome : Obligations.AluFmulOutcome := by
  intro a b s
  have hencodes : ∀ v, qxMul (fpuParse Config.params a).value (fpuParse Config.params b).value = some v →
      (fpuMultiply Config.params s.draws a b).bits = (fpuCreate Config.params s.draws v).bits :=
    fun v hv => by rw [fpuMultiply_of_some _ a b v hv]
  refine ⟨_, (fpuMultiply Config.params s.draws a b).bits, exec_aluFmul_eq a b s, rfl, flagsAfter_zext16 _ _ _, ?status, rfl,
    fun x y hx hy => hencodes _ (by rw [hx, hy]; rfl), hencodes⟩
  case status => rw [State.setFpu_eq s _ (fpuMultiply_status _ a b)]; rfl

end Sys2Proof.Machine
end

section
/-! The frame of the ALU's operations called directly (45_alu.md section 4, 47_control_cpu.md section 6), and what holds after every call
of the ALU (45_alu.md section 2, 10_state.md section 3). -/

namespace Sys2Proof.Machine

/-- The float unit's status is written by the two float operations only (R16). -/
theorem execState_fpu (i : Instr) (s : State) (hadd : ∀ a b, i ≠ .aluFadd a b) (hmul : ∀ a b, i ≠ .aluFmul a b) :
    (execState i s).fpu = s.fpu := by
  cases i with
  | aluFadd a b => exact absurd rfl (hadd a b)
  | aluFmul a b => exact absurd rfl (hmul a b)
  | add | sub | mul | mov =>
    simp only [execState, State.afterInstruction_fpu, State.evalOwnedGates_fpu]
  | aluAdd | aluSub | aluMul | aluDiv | aluNop6 | aluNop7 =>
    simp only [execState, State.afterAlu_fpu, State.evalOwnedGates_fpu]

/-- Of the direct operations, add, subtract and multiply are those that evaluate gates of their own (log 8). -/
theorem execState_ownedGates (i : Instr) (s : State) (hformat : i.format = .alu3) (hadd : ∀ a b, i ≠ .aluAdd a b)
    (hsub : ∀ a b, i ≠ .aluSub a b) (hmul : ∀ a b, i ≠ .aluMul a b) : (execState i s).ownedGates = s.ownedGates := by
  cases i with
  | add | sub | mul | mov => cases hformat
  | aluAdd a b => exact absurd rfl (hadd a b)
  | aluSub a b => exact absurd rfl (hsub a b)
  | aluMul a b => exact absurd rfl (hmul a b)
  | aluDiv | aluFadd | aluFmul | aluNop6 | aluNop7 => rfl

theorem sameOwnedOutputs_of_eq {s t : State} (h : t.ownedGates = s.ownedGates) : SameOwnedOutputs s t := by
  intro g
  rw [State.ownedLastOut, State.ownedLastOut, h]

/-- The effect of a direct call of the ALU: its own record over what the blocks left. -/
theorem execState_alu3 (i : Instr) (s : State) (h : i.format = .alu3) :
    ∃ u w c v, BlocksRan s u ∧ execState i s = u.afterAlu w c v := by
  obtain ⟨u, hu, ⟨_, _, _, _, _, _, _, hi8, _⟩ | ⟨w, c, v, _, heffect⟩⟩ := execState_cases i s
  · exact absurd (h.symm.trans hi8) (by decide)
  · exact ⟨u, w, c, v, hu, heffect⟩

/-- Settles O23: the blocks and the ALU's record touch none of the fields named; which instructions run blocks is by cases. -/
theorem aluOperationFrame : Obligations.AluOperationFrame := by
  intro i s t hformat h
  rw [eq_execState_of_exec h]
  refine ⟨?_, ?_, ?_, ?_, ?_, ?_, ?_, ?_, ?_, execState_fpu i s,
    fun hadd hsub hmul => sameOwnedOutputs_of_eq (execState_ownedGates i s hformat hadd hsub hmul)⟩
  all_goals
    obtain ⟨u, w, c, v, hu, heffect⟩ := execState_alu3 i s hformat
    rw [heffect, hu.eq]
  · exact fun _ => rfl
  · exact fun _ => rfl
  · rfl
  · rfl
  · rfl
  · rfl
  · exact fun _ => ⟨rfl, rfl⟩
  · exact fun _ _ => rfl
  · rfl

/-- After every instruction zero and sign are those of the result (R136), whatever carry and overflow are. -/
theorem execState_flags (i : Instr) (s : State) :
    ∃ c v, (execState i s).alu.flags = flagsAfter (execState i s).alu.result c v := by
  obtain ⟨u, _, ⟨o, d, s1, s2, w, c, v, _, _, heffect, _⟩ | ⟨w, c, v, _, heffect⟩⟩ := execState_cases i s
  · exact ⟨c, v, by rw [heffect]; rfl⟩
  · exact ⟨c, v, by rw [heffect]; rfl⟩

/-- Settles O24: every instruction ends with the flags of its result. -/
theorem zeroAndSignEveryCall : Obligations.ZeroAndSignEveryCall := by
  intro i s
  obtain ⟨c, v, hflags⟩ := execState_flags i s
  refine ⟨execState i s, exec_eq_next i s, ?_, ?_⟩
  · rw [hflags]; exact zeroOf_iff_bits _
  · rw [hflags]; rfl

/-- A direct call of the ALU writes all four flags, so those before it leave no trace but in what the call was given. -/
theorem afterAlu_withFlags (u : State) (f : Flags) (w : Wide) (c v c' v' : Bit) :
    (((u.withFlags f).afterAlu w c' v').withFlags (u.afterAlu w c v).alu.flags).withResponse (u.afterAlu w c v).response =
      u.afterAlu w c v := rfl

theorem afterInstruction_withFlags (u : State) (f : Flags) (b : Byte) (d : Reg) (w : Wide) (c v c' v' : Bit) :
    (((u.withFlags f).afterInstruction b d w c' v').withFlags (u.afterInstruction b d w c v).alu.flags).withResponse
      (u.afterInstruction b d w c v).response = u.afterInstruction b d w c v := rfl

/-- No instruction's result is made of a flag: the carry and the overflow it writes are all that a flag can reach. -/
theorem execState_withFlags (i : Instr) (s : State) (f : Flags) :
    ((execState i (s.withFlags f)).withFlags (execState i s).alu.flags).withResponse (execState i s).response =
      execState i s := by
  cases i with
  | add d s1 s2 => exact afterInstruction_withFlags s.evalOwnedGates f _ d _ _ _ _ _
  | sub d s1 s2 => exact afterInstruction_withFlags s.evalOwnedGates f _ d _ _ _ _ _
  | mul d s1 s2 => exact afterInstruction_withFlags s.evalOwnedGates f _ d _ _ _ _ _
  | mov d s1 s2 => exact afterInstruction_withFlags s f _ d _ _ _ _ _
  | aluAdd a b => exact afterAlu_withFlags s.evalOwnedGates f _ _ _ _ _
  | aluSub a b => exact afterAlu_withFlags s.evalOwnedGates f _ _ _ _ _
  | aluMul a b => exact afterAlu_withFlags s.evalOwnedGates f _ _ _ _ _
  | aluDiv a b => exact afterAlu_withFlags s f _ _ _ _ _
  | aluFadd a b => exact afterAlu_withFlags (s.setFpu (fpuAdd Config.params s.draws a b)) f _ _ _ _ _
  | aluFmul a b => exact afterAlu_withFlags (s.setFpu (fpuMultiply Config.params s.draws a b)) f _ _ _ _ _
  | aluNop6 a b => exact afterAlu_withFlags s f _ _ _ _ _
  | aluNop7 a b => exact afterAlu_withFlags s f _ _ _ _ _

/-- Settles O47: both runs are the same record but for the flags it names. -/
theorem flagsDecideNothing : Obligations.FlagsDecideNothing := fun i s f =>
  ⟨execState i s, execState i (s.withFlags f), exec_eq_next i s, exec_eq_next i _, execState_withFlags i s f⟩

end Sys2Proof.Machine
end

section
/-! The four instructions of format I8 (47_control_cpu.md section 3, R173 to R179): destination, result and flags of each, and what
all of them record and leave alone. -/

namespace Sys2Proof.Machine

theorem rca8_carryOut_eq (a b : Byte) : (rca8 a b).carryOut = decide (256 ≤ a.toNat + b.toNat) := by
  rw [Bool.eq_iff_iff, decide_eq_true_iff, rca8_carryOut_iff]

theorem rca8_overflow_eq (a b : Byte) : (rca8 a b).overflow = signedOverflow (sval a + sval b) := by
  rw [Bool.eq_iff_iff, signedOverflow, decide_eq_true_iff, rca8_overflow_iff]

theorem sub8_borrowOut_eq (a b : Byte) : (sub8 Config.params a b).borrowOut = decide (b.toNat ≤ a.toNat) :=
  sub8_borrowOut Config.params a b

/-- Flags by the low byte of the result, as the destination register holds it. -/
theorem flagsAfter_eq_lowByte (w : Wide) (c v : Bit) :
    flagsAfter w c v =
      { carry := c, zero := decide (lowByte w = 0), overflow := v, sign := (lowByte w).getLsbD 7 } := by
  rw [flagsAfter, signOf_lowByte, zeroOf]

/-- Settles O25: the destination takes the adder's sum, whose carry and overflow are the range checks on the exact sum. -/
theorem addOutcome : Obligations.AddOutcome := by
  intro d s1 s2 s
  refine ⟨_, exec_add_eq d s1 s2 s, ?_⟩
  rw [State.afterInstruction_reg_same, State.afterInstruction_alu, flagsAfter_zext16, lowByte_zext16, rca8_carryOut_eq,
    rca8_overflow_eq]
  exact ⟨rca8_sum_toNat _ _, rfl, rfl⟩

/-- Settles O26: the destination takes the subtractor's result, which is 0 just for equal operands. -/
theorem subOutcome : Obligations.SubOutcome := by
  intro d s1 s2 s
  refine ⟨_, exec_sub_eq d s1 s2 s, ?_⟩
  rw [State.afterInstruction_reg_same, State.afterInstruction_alu, flagsAfter_zext16, lowByte_zext16, sub8_borrowOut_eq,
    decide_eq_decide.2 (sub8_result_eq_zero_iff _ _ _)]
  exact ⟨sub8_result_toNat _ _ _, rfl, rfl⟩

/-- Settles O27: the destination takes the exact low byte of the truncating product. -/
theorem mulOutcome : Obligations.MulOutcome := by
  intro d s1 s2 s
  refine ⟨_, exec_mul_eq d s1 s2 s, ?_⟩
  rw [State.afterInstruction_reg_same, State.afterInstruction_alu, flagsAfter_eq_lowByte]
  exact ⟨(lowByte_toNat _).trans (shiftAndAdd_mod _ _), multiplierClosedForm _ _, rfl⟩

/-- Settles O28: the destination takes the quotient, the high byte of the result the remainder. -/
theorem movOutcome : Obligations.MovOutcome := by
  intro d s1 s2 s
  refine ⟨_, exec_mov_eq d s1 s2 s, ?_⟩
  rw [State.afterInstruction_reg_same, State.afterInstruction_alu, flagsAfter_eq_lowByte, lowByte_lowFirst,
    highByte_lowFirst, div8_divByZero]
  exact ⟨div8_quotient_toNat _ _, rfl, div8_remainder_toNat _ _, rfl⟩

/-! ### Bookkeeping -/

/-- The effect of an instruction byte: the record of `execute_instruction` over what the blocks left. -/
theorem execState_i8 (i : Instr) (s : State) (h : i.format = .i8) :
    ∃ u o d s1 s2 w c v, BlocksRan s u ∧ encode i = [encodeByte o d s1 s2] ∧
      execState i s = u.afterInstruction (encodeByte o d s1 s2) d w c v ∧
      i.wellFormed = (Reg.nameable d && Reg.nameable s1 && Reg.nameable s2) := by
  obtain ⟨u, hu, ⟨o, d, s1, s2, w, c, v, _, hencode, heffect, hwf⟩ | ⟨_, _, _, halu3, _⟩⟩ := execState_cases i s
  · exact ⟨u, o, d, s1, s2, w, c, v, hu, hencode, heffect, hwf⟩
  · exact absurd (h.symm.trans halu3) (by decide)

theorem val_lt_four_of_wellFormed {d s1 s2 : Reg}
    (h : (Reg.nameable d && Reg.nameable s1 && Reg.nameable s2) = true) : d.val < 4 := by
  simp only [Bool.and_eq_true] at h
  exact of_decide_eq_true h.1.1

theorem decodeByte_of_encode (i : Instr) (b : Byte) (hformat : i.format = .i8) (hwf : i.wellFormed = true)
    (hencode : encode i = [b]) : decodeByte b = i := by
  have hdecode := decodeAfterEncode i [] hwf
  rw [hformat, hencode] at hdecode
  cases hdecode
  rfl

theorem pc_succ_toNat (pc : Byte) : (pc + 1).toNat = (pc.toNat + 1) % 256 :=
  BitVec.toNat_add pc 1

/-- Settles O29: the record that `execute_instruction` leaves, whose byte is the instruction's encoding. -/
theorem instructionBookkeeping : Obligations.InstructionBookkeeping := by
  intro i s hformat hwf
  obtain ⟨u, o, d, s1, s2, w, c, v, hu, hencode, heffect, hwf'⟩ := execState_i8 i s hformat
  have hdst := regOfField_fieldDst_encodeByte o d s1 s2 (by
    rw [hwf', Bool.and_eq_true, Bool.and_eq_true] at hwf
    exact hwf.1.1)
  have hcycles : u.cycles = s.cycles := by rw [hu.eq]
  have hpc : u.cu.pc = s.cu.pc := by rw [hu.eq]
  refine ⟨execState i s, d, exec_eq_next i s, ?_⟩
  rw [heffect]
  refine ⟨hencode, decodeByte_of_encode i _ hformat hwf hencode, ControlUnit.executed_consistent _ _,
    (congrArg Fin.val hdst).symm, State.afterInstruction_reg_same u _ d w c v, rfl, ?cycles, ?pc, rfl⟩
  case cycles => rw [State.afterInstruction_cycles, hcycles]
  case pc => rw [← hpc]; exact pc_succ_toNat _

/-! ### Frame -/

/-- What an instruction byte leaves alone, whatever its opcode. -/
structure InstructionKeeps (d : Reg) (s t : State) : Prop where
  registers : SameRegistersExcept d s t
  memory : SameMemory s t
  abus : t.abus = s.abus
  latches : SameLatches s t
  fpu : t.fpu = s.fpu
  gateOutputs : SameGateOutputs s t
  calls : t.calls = s.calls

theorem afterInstruction_keeps (s : State) (b : Byte) (d : Reg) (w : Wide) (c v : Bit) :
    InstructionKeeps d s (s.afterInstruction b d w c v) where
  registers := fun r hr => State.afterInstruction_reg_other s b d r w c v hr
  memory := fun _ => rfl
  abus := rfl
  latches := fun _ => ⟨rfl, rfl⟩
  fpu := rfl
  gateOutputs := fun _ _ => rfl
  calls := rfl

/-- Gates inside the adder, the subtractor and the multiplier are none of what an instruction keeps (log 33). -/
theorem afterInstruction_keeps_of_gates (s : State) (b : Byte) (d : Reg) (w : Wide) (c v : Bit) :
    InstructionKeeps d s (s.evalOwnedGates.afterInstruction b d w c v) :=
  { afterInstruction_keeps s.evalOwnedGates b d w c v with }

/-- Settles O30: the four records, over the state itself for MOV and over evaluated gates for the other three. -/
theorem instructionFrame : Obligations.InstructionFrame := by
  intro d s1 s2 s t i hi h
  have hkeeps : InstructionKeeps d s (execState i s) := by
    rcases hi with rfl | rfl | rfl | rfl
    · exact afterInstruction_keeps_of_gates s _ d _ _ _
    · exact afterInstruction_keeps_of_gates s _ d _ _ _
    · exact afterInstruction_keeps_of_gates s _ d _ _ _
    · exact afterInstruction_keeps s _ d _ _ _
  have hwf : i.wellFormed = (Reg.nameable d && Reg.nameable s1 && Reg.nameable s2) := by
    rcases hi with rfl | rfl | rfl | rfl <;> rfl
  rw [eq_execState_of_exec h]
  refine ⟨hkeeps.registers, ?upper, hkeeps.memory, hkeeps.abus, hkeeps.latches, hkeeps.fpu, hkeeps.gateOutputs, hkeeps.calls,
    ?overflow, ?owned⟩
  case upper =>
    intro hi r hr
    have hd := val_lt_four_of_wellFormed (hwf.symm.trans hi)
    exact hkeeps.registers r fun hrd => by subst hrd; omega
  case overflow =>
    intro hne
    rcases hi with rfl | rfl | rfl | rfl
    · exact absurd rfl hne
    · rfl
    · rfl
    · rfl
  case owned =>
    rintro rfl
    exact sameOwnedOutputs_of_eq rfl

end Sys2Proof.Machine
end

section
/-! The host's calls of gates, blocks and latches (40_gates.md section 2, 41_composite_logic.md section 4, 47_control_cpu.md section 6). -/

namespace Sys2Proof.Machine

/-! ### Arithmetic units and composite blocks -/

/-- A call whose operation only runs a block's gates and returns. -/
theorem onlyReturns_of_gates (s : State) (rest : List HostCall) (o : HostOp) (r : Response) (h : s.calls = .op o :: rest)
    (ho : ∀ u : State, hostOp o u = u.evalOwnedGates.respond r) : OnlyReturns s rest r :=
  ⟨some s.draws, s.draws + 1, by rw [step_op s o rest h, ho]; rfl⟩

/-- Settles O58: each call returns its unit's outputs, and those are its arithmetic. -/
theorem unitCallsReturnOutputs : Obligations.UnitCallsReturnOutputs := by
  intro s rest
  refine ⟨fun a b h => ?adder, fun a b h => ?subtractor, fun a b h => ?multiplier, fun d v h => ?divider, fun a b h => ?half,
    fun a b c h => ?full, fun a b c h => ?subtractorBit, fun a b sel h => ?multiplexer⟩
  case adder =>
    exact ⟨_, _, _, onlyReturns_of_gates s rest _ _ h fun _ => rfl, rca8_sum_toNat a b, rca8_carryOut_eq a b,
      rca8_overflow_eq a b⟩
  case subtractor =>
    exact ⟨_, _, onlyReturns_of_gates s rest _ _ h fun _ => rfl, sub8_result_toNat _ a b, sub8_borrowOut_eq a b⟩
  case multiplier =>
    exact ⟨_, onlyReturns_of_gates s rest _ _ h fun _ => rfl, multiplierClosedForm a b⟩
  case divider =>
    refine ⟨(div8 d v).quotient, (div8 d v).remainder, ?_, div8_quotient_toNat d v, div8_remainder_toNat d v⟩
    rw [← div8_divByZero d v]
    exact step_op s _ rest h
  case half =>
    exact ⟨_, _, onlyReturns_of_gates s rest _ _ h fun _ => rfl, halfAdder_val a b⟩
  case full =>
    exact ⟨_, _, onlyReturns_of_gates s rest _ _ h fun _ => rfl, (fullAdder_val a b c).symm⟩
  case subtractorBit =>
    exact ⟨_, _, onlyReturns_of_gates s rest _ _ h fun _ => rfl, oneBitSubtractor_val a b c⟩
  case multiplexer =>
    rw [← multiplexer2to1_eq]
    exact onlyReturns_of_gates s rest _ _ h fun _ => rfl

/-! ### Gates the host evaluates -/

/-- The gate type of an offset in `gateNumber`, its inverse there. -/
def kindOfOffset : Nat → GateKind
  | 0 => .and
  | 1 => .or
  | 2 => .not
  | 3 => .xor
  | 4 => .nand
  | _ => .nor

theorem kindOfOffset_gateNumber (k : GateKind) (n : Nat) : kindOfOffset (gateNumber k n % 6) = k := by
  cases k <;> simp [gateNumber, kindOfOffset]

theorem gateNumber_div (k : GateKind) (n : Nat) : gateNumber k n / 6 = n := by
  cases k <;> simp only [gateNumber] <;> omega

/-- The numbering of the gates the host holds keeps them apart (log 9). -/
theorem gateNumber_injective (k j : GateKind) (n m : Nat) (h : gateNumber k n = gateNumber j m) : k = j ∧ n = m :=
  ⟨by rw [← kindOfOffset_gateNumber k n, h, kindOfOffset_gateNumber],
    by rw [← gateNumber_div k n, h, gateNumber_div]⟩

theorem lastOut_evalGate (s : State) (n : Nat) (g : GateInput) (hgate : storeWf gateOutDefault s.gateOut = true)
    (k : GateKind) (m : Nat) :
    (s.evalGate n g).lastOut k m = if gateNumber k m = gateNumber g.kind n then g.output else s.lastOut k m :=
  storeRead_storeWrite gateOutDefault s.gateOut _ _ _ hgate

theorem lastOut_evalGate_same (s : State) (n : Nat) (g : GateInput) (hgate : storeWf gateOutDefault s.gateOut = true) :
    (s.evalGate n g).lastOut g.kind n = g.output := by
  rw [lastOut_evalGate s n g hgate, if_pos rfl]

theorem lastOut_evalGate_other (s : State) (n : Nat) (g : GateInput) (hgate : storeWf gateOutDefault s.gateOut = true)
    (k : GateKind) (m : Nat) (hne : (k, m) ≠ (g.kind, n)) : (s.evalGate n g).lastOut k m = s.lastOut k m := by
  rw [lastOut_evalGate s n g hgate, if_neg]
  intro h
  obtain ⟨rfl, rfl⟩ := gateNumber_injective _ _ _ _ h
  exact hne rfl

/-- R68 for any gate: the call returns the output and shows it at its own place alone. -/
theorem evaluatesGate_of_call (s : State) (rest : List HostCall) (n : Nat) (g : GateInput) (hinv : s.inv = true)
    (h : s.calls = .op (.gate n g) :: rest) : EvaluatesGate s rest g.kind n g.output :=
  have hgate := (s.inv_iff.1 hinv).gateOut
  ⟨(s.evalGate n g).gateOut, step_op s _ rest h, lastOut_evalGate_same s n g hgate, lastOut_evalGate_other s n g hgate⟩

/-- Settles O59: R68 for each gate, whose output is its arithmetic value. -/
theorem gateCallsReturnOutputs : Obligations.GateCallsReturnOutputs := by
  intro s n a b rest hinv
  exact
    ⟨fun h => ⟨_, evaluatesGate_of_call s rest n (.and a b) hinv h, gateAnd_val a b⟩,
      fun h => ⟨_, evaluatesGate_of_call s rest n (.or a b) hinv h, gateOr_val a b⟩,
      fun h => ⟨_, evaluatesGate_of_call s rest n (.not a) hinv h, gateNot_val a⟩,
      fun h => ⟨_, evaluatesGate_of_call s rest n (.xor a b) hinv h, gateXor_val a b⟩,
      fun h => ⟨_, evaluatesGate_of_call s rest n (.nand a b) hinv h, gateNand_val a b⟩,
      fun h => ⟨_, evaluatesGate_of_call s rest n (.nor a b) hinv h, gateNor_val a b⟩⟩

/-! ### Latches -/

/-- Settles O9: the written latch is `Latch.applySr_eq`'s, and the table keeps every other number. -/
theorem srLatchTransitions : Obligations.SrLatchTransitions := by
  intro s n set reset rest hinv h
  have hwf := ((latchesWf_iff _).1 (s.inv_iff.1 hinv).srLatches).1
  have hread := fun m => storeRead_storeWrite latchDefault s.srLatches n m ((s.srLatch n).applySr set reset) hwf
  refine ⟨_, step_op s _ rest h, ?written, rfl, ?others, fun _ => rfl, fun _ => rfl, fun _ => rfl, rfl, rfl, rfl, rfl, rfl, rfl,
    fun _ _ => rfl, rfl⟩
  case written => exact ((hread n).trans (if_pos rfl)).trans (Latch.applySr_eq _ set reset)
  case others => exact fun m hm => (hread m).trans (if_neg hm)

/-- Settles O10: as for the SRLatch, with `Latch.applyD_eq`. -/
theorem dLatchTransitions : Obligations.DLatchTransitions := by
  intro s n data enable rest hinv h
  have hwf := ((latchesWf_iff _).1 (s.inv_iff.1 hinv).dLatches).1
  have hread := fun m => storeRead_storeWrite latchDefault s.dLatches n m ((s.dLatch n).applyD data enable) hwf
  refine ⟨_, step_op s _ rest h, ?written, rfl, ?others, fun _ => rfl, fun _ => rfl, fun _ => rfl, rfl, rfl, rfl, rfl, rfl, rfl,
    fun _ _ => rfl, rfl⟩
  case written => exact ((hread n).trans (if_pos rfl)).trans (Latch.applyD_eq _ data enable)
  case others => exact fun m hm => (hread m).trans (if_neg hm)

/-! ### Gate outputs decide nothing -/

theorem registerWrite_withGateOutputs (s : State) (g : List (Nat × Bit)) (o : Option Nat) (i v : Int) :
    (s.withGateOutputs g o).registerWrite i v = (s.registerWrite i v).withGateOutputs g o := by
  unfold State.registerWrite
  split <;> rfl

theorem memoryWrite_withGateOutputs (s : State) (g : List (Nat × Bit)) (o : Option Nat) (a v : Int) :
    (s.withGateOutputs g o).memoryWrite a v = (s.memoryWrite a v).withGateOutputs g o := by
  unfold State.memoryWrite
  split <;> rfl

theorem loadMemory_withGateOutputs (s : State) (g : List (Nat × Bit)) (o : Option Nat) (a v : Int) :
    (s.withGateOutputs g o).loadMemory a v = (s.loadMemory a v).withGateOutputs g o :=
  memoryWrite_withGateOutputs ((s.setAddress a .host).transfer v .host .mem) g o a v

theorem execState_withGateOutputs (i : Instr) (s : State) (g : List (Nat × Bit)) (o : Option Nat) :
    ∃ g' o', execState i (s.withGateOutputs g o) = (execState i s).withGateOutputs g' o' := by
  cases i with
  | add | sub | mul | aluAdd | aluSub | aluMul => exact ⟨g, some s.draws, rfl⟩
  | mov | aluDiv | aluFadd | aluFmul | aluNop6 | aluNop7 => exact ⟨g, o, rfl⟩

theorem hostOp_withGateOutputs (c : HostOp) (s : State) (g : List (Nat × Bit)) (o : Option Nat) :
    ∃ g' o', hostOp c (s.withGateOutputs g o) = (hostOp c s).withGateOutputs g' o' := by
  cases c with
  | registerRead | memoryRead | memoryReadRange | readMemory | dataBusTransfer | addressBusSet | controlDecode | incrementPc
    | snapshot | resetCall | divider | fpuParse | fpuCreate | fpuAdd | fpuMultiply =>
    exact ⟨g, o, rfl⟩
  | registerWrite i v => exact ⟨g, o, by rw [hostOp, registerWrite_withGateOutputs]; rfl⟩
  | memoryWrite a v => exact ⟨g, o, by rw [hostOp, memoryWrite_withGateOutputs]; rfl⟩
  | loadMemory a v => exact ⟨g, o, by rw [hostOp, loadMemory_withGateOutputs]; rfl⟩
  | adder | subtractor | multiplier | halfAdder | fullAdder | oneBitSubtractor | multiplexer | srLatch | dLatch =>
    exact ⟨g, some s.draws, rfl⟩
  | gate n i => exact ⟨_, o, rfl⟩

/-- Whatever gate outputs are put in, a call answers the same state but for them. -/
theorem callState_withGateOutputs (c : HostCall) (s : State) (g : List (Nat × Bit)) (o : Option Nat) :
    ∃ g' o', callState c (s.withGateOutputs g o) = (callState c s).withGateOutputs g' o' := by
  cases c with
  | executeInstruction b => exact execState_withGateOutputs (decodeByte b) s g o
  | aluExecute sel a b => exact execState_withGateOutputs (decodeSelect sel a b) s g o
  | op c => exact hostOp_withGateOutputs c s g o

theorem step_withGateOutputs (s : State) (g : List (Nat × Bit)) (o : Option Nat) :
    ∃ t t', step s = .next t ∧ step (s.withGateOutputs g o) = .next t' ∧ t'.withGateOutputs t.gateOut t.ownedGates = t := by
  cases hcalls : s.calls with
  | nil => exact ⟨s, s.withGateOutputs g o, step_nil s hcalls, step_nil _ hcalls, rfl⟩
  | cons c rest =>
    obtain ⟨g', o', hsame⟩ := callState_withGateOutputs c { s with calls := rest } g o
    refine ⟨_, _, step_eq_next_callState s c rest hcalls, step_eq_next_callState (s.withGateOutputs g o) c rest hcalls, ?_⟩
    exact hsame ▸ rfl

/-- Settles O8: R68 for any gate, construction and `reset()` by definition, and `step_withGateOutputs`. -/
theorem gateOutputRegister : Obligations.GateOutputRegister := by
  refine ⟨fun s n g rest hinv h => ?evaluated, fun _ _ => rfl, fun _ => rfl, fun s => ⟨fun _ _ => rfl, fun _ => rfl⟩,
    step_withGateOutputs⟩
  case evaluated =>
    obtain ⟨table, hstep, hsame, hother⟩ := evaluatesGate_of_call s rest n g hinv h
    exact ⟨_, hstep, rfl, hsame, fun k m hne => hother k m hne, rfl⟩

end Sys2Proof.Machine
end

section
/-! The bus records decide nothing (46_regfile_memory_buses.md section 3, R156). -/

namespace Sys2Proof.Machine

/-- Of two runs of one call from states that differ in the bus records alone (`s`, and `s` with `d` and `a`), what the answers `t` and
`t'` have in common. -/
structure SameButBuses (s : State) (d : DataBus) (a : AddressBus) (t t' : State) : Prop where
  rest : (t'.withBuses t.dbus t.abus).withResponse t.response = t
  dbus : t'.dbus = t.dbus ∨ (t.dbus = s.dbus ∧ t'.dbus = d)
  abus : t'.abus = t.abus ∨ (t.abus = s.abus ∧ t'.abus = a)

/-- Both runs leave both records alone. -/
theorem sameButBuses_of_kept {s t t' : State} {d : DataBus} {a : AddressBus} (hd : t.dbus = s.dbus) (ha : t.abus = s.abus)
    (h : t' = t.withBuses d a) : SameButBuses s d a t t' ∧ t'.response = t.response := by
  subst h
  exact ⟨⟨rfl, .inr ⟨hd, rfl⟩, .inr ⟨ha, rfl⟩⟩, rfl⟩

/-- Both runs write both records. -/
theorem sameButBuses_of_eq {s t t' : State} {d : DataBus} {a : AddressBus} (h : t' = t) :
    SameButBuses s d a t t' ∧ t'.response = t.response := by
  subst h
  exact ⟨⟨rfl, .inl rfl, .inl rfl⟩, rfl⟩

theorem registerWrite_withBuses (s : State) (d : DataBus) (a : AddressBus) (i v : Int) :
    (s.withBuses d a).registerWrite i v = (s.registerWrite i v).withBuses d a := by
  unfold State.registerWrite
  split <;> rfl

theorem memoryWrite_withBuses (s : State) (d : DataBus) (a : AddressBus) (i v : Int) :
    (s.withBuses d a).memoryWrite i v = (s.memoryWrite i v).withBuses d a := by
  unfold State.memoryWrite
  split <;> rfl

/-- The float unit's output is kept as it is, whatever it is. -/
theorem setFpu_sameButBuses (s : State) (d : DataBus) (a : AddressBus) (o : FpuOut) (r : Response) :
    SameButBuses s d a ((s.setFpu o).respond r) (((s.withBuses d a).setFpu o).respond r) :=
  ⟨rfl, .inr ⟨rfl, rfl⟩, .inr ⟨rfl, rfl⟩⟩

theorem execState_alu3_keeps_buses (i : Instr) (s : State) (h : i.format = .alu3) :
    (execState i s).dbus = s.dbus ∧ (execState i s).abus = s.abus := by
  obtain ⟨u, w, c, v, hu, heffect⟩ := execState_alu3 i s h
  rw [heffect, hu.eq]
  exact ⟨rfl, rfl⟩

theorem execState_alu3_withBuses (i : Instr) (s : State) (d : DataBus) (a : AddressBus) (h : i.format = .alu3) :
    execState i (s.withBuses d a) = (execState i s).withBuses d a := by
  cases i with
  | add | sub | mul | mov => cases h
  | aluAdd | aluSub | aluMul | aluDiv | aluFadd | aluFmul | aluNop6 | aluNop7 => rfl

theorem execState_withBuses (i : Instr) (s : State) (d : DataBus) (a : AddressBus) :
    SameButBuses s d a (execState i s) (execState i (s.withBuses d a)) ∧
      (execState i (s.withBuses d a)).response = (execState i s).response := by
  cases hformat : i.format with
  | i8 =>
    cases i with
    | add | sub | mul | mov => exact ⟨⟨rfl, .inl rfl, .inr ⟨rfl, rfl⟩⟩, rfl⟩
    | aluAdd | aluSub | aluMul | aluDiv | aluFadd | aluFmul | aluNop6 | aluNop7 => cases hformat
  | alu3 =>
    obtain ⟨hdbus, habus⟩ := execState_alu3_keeps_buses i s hformat
    exact sameButBuses_of_kept hdbus habus (execState_alu3_withBuses i s d a hformat)

/-- A call that is not the snapshot returns the same; the snapshot returns the records. -/
theorem hostOp_withBuses (c : HostOp) (s : State) (d : DataBus) (a : AddressBus) :
    SameButBuses s d a (hostOp c s) (hostOp c (s.withBuses d a)) ∧
      ((HostCall.op c).isSnapshot = false → (hostOp c (s.withBuses d a)).response = (hostOp c s).response) := by
  cases c with
  | registerRead | memoryRead | memoryReadRange | controlDecode | incrementPc | resetCall | adder | subtractor | multiplier
    | divider | fpuParse | halfAdder | fullAdder | oneBitSubtractor | multiplexer | srLatch | dLatch | gate =>
    exact ⟨⟨rfl, .inr ⟨rfl, rfl⟩, .inr ⟨rfl, rfl⟩⟩, fun _ => rfl⟩
  | fpuCreate v => exact ⟨setFpu_sameButBuses s d a (fpuCreate Config.params s.draws v) _, fun _ => rfl⟩
  | fpuAdd x y => exact ⟨setFpu_sameButBuses s d a (fpuAdd Config.params s.draws x y) _, fun _ => rfl⟩
  | fpuMultiply x y => exact ⟨setFpu_sameButBuses s d a (fpuMultiply Config.params s.draws x y) _, fun _ => rfl⟩
  | readMemory i => exact (sameButBuses_of_eq rfl).imp_right fun h _ => h
  | loadMemory i v => exact (sameButBuses_of_eq rfl).imp_right fun h _ => h
  | dataBusTransfer => exact ⟨⟨rfl, .inl rfl, .inr ⟨rfl, rfl⟩⟩, fun _ => rfl⟩
  | addressBusSet => exact ⟨⟨rfl, .inr ⟨rfl, rfl⟩, .inl rfl⟩, fun _ => rfl⟩
  | snapshot => exact ⟨⟨rfl, .inr ⟨rfl, rfl⟩, .inr ⟨rfl, rfl⟩⟩, fun hsnapshot => by cases hsnapshot⟩
  | registerWrite i v =>
    refine (sameButBuses_of_kept ?_ ?_ ?_).imp_right fun h _ => h
    · rw [hostOp, State.registerWrite_eq]; rfl
    · rw [hostOp, State.registerWrite_eq]; rfl
    · rw [hostOp, registerWrite_withBuses]; rfl
  | memoryWrite i v =>
    refine (sameButBuses_of_kept ?_ ?_ ?_).imp_right fun h _ => h
    · rw [hostOp, State.memoryWrite_eq]; rfl
    · rw [hostOp, State.memoryWrite_eq]; rfl
    · rw [hostOp, memoryWrite_withBuses]; rfl

theorem callState_withBuses (c : HostCall) (s : State) (d : DataBus) (a : AddressBus) :
    SameButBuses s d a (callState c s) (callState c (s.withBuses d a)) ∧
      (c.isSnapshot = false → (callState c (s.withBuses d a)).response = (callState c s).response) := by
  cases c with
  | executeInstruction b =>
    obtain ⟨hsame, hresponse⟩ := execState_withBuses (decodeByte b) s d a
    exact ⟨hsame, fun _ => hresponse⟩
  | aluExecute sel x y =>
    obtain ⟨hsame, hresponse⟩ := execState_withBuses (decodeSelect sel x y) s d a
    exact ⟨hsame, fun _ => hresponse⟩
  | op o => exact hostOp_withBuses o s d a

/-- Settles O46: with no call left by definition, with one by `callState_withBuses`. -/
theorem busesDecideNothing : Obligations.BusesDecideNothing := by
  intro s d a
  cases hcalls : s.calls with
  | nil =>
    refine ⟨s, s.withBuses d a, step_nil s hcalls, step_nil _ hcalls, rfl, .inr ⟨rfl, rfl⟩, .inr ⟨rfl, rfl⟩,
      fun _ => rfl, ?_⟩
    intro v src dst rest h
    cases h
  | cons c rest =>
    obtain ⟨hsame, hresponse⟩ := callState_withBuses c { s with calls := rest } d a
    refine ⟨_, _, step_eq_next_callState s c rest hcalls, step_eq_next_callState (s.withBuses d a) c rest hcalls,
      hsame.rest, hsame.dbus, hsame.abus, ?returned, ?recorded⟩
    case returned =>
      intro hsnapshot
      have hback := hsame.rest
      rw [← hresponse (hsnapshot c rfl)] at hback
      exact hback
    case recorded =>
      intro v src dst rest' h
      cases h
      rfl

end Sys2Proof.Machine
end

section
/-! Storage through the host (20_memory.md sections 1 and 2, 46_regfile_memory_buses.md, 47_control_cpu.md section 4): what the calls
write, what they record, and that nothing else writes memory or R4 to R7. -/

namespace Sys2Proof.Machine

/-- R33, R146: the stored byte of an integer (D2, log 26). -/
theorem maskByte_toNat (v : Int) : ((maskByte v).toNat : Int) = v % 256 := by
  rw [maskByte, BitVec.toNat_ofInt]
  exact Int.toNat_of_nonneg (Int.emod_nonneg v (by decide))

/-! ### Register file -/

/-- An integer is the index of one register or of none. -/
theorem regOfIndex_cases (i : Int) :
    (∃ r : Reg, i = (r.val : Int) ∧ regOfIndex i = some r) ∨ ((i < 0 ∨ 7 < i) ∧ regOfIndex i = none) := by
  rcases lt_or_ge i 0 with hneg | hpos
  · exact .inr ⟨.inl hneg, regOfIndex_outside i (.inl hneg)⟩
  · rcases lt_or_ge 7 i with hlarge | hsmall
    · exact .inr ⟨.inr hlarge, regOfIndex_outside i (.inr hlarge)⟩
    · have hi : i = ((⟨i.toNat, by omega⟩ : Reg).val : Int) := (Int.toNat_of_nonneg hpos).symm
      exact .inl ⟨⟨i.toNat, by omega⟩, hi, dif_pos ⟨hpos, by omega⟩⟩

theorem registerWriteOk_eq (i : Int) : registerWriteOk i = decide (0 ≤ i ∧ i ≤ 7) := by
  rcases regOfIndex_cases i with ⟨r, rfl, hr⟩ | ⟨hout, hr⟩
  · have hlt := r.isLt
    rw [registerWriteOk, hr]
    exact (decide_eq_true ⟨by omega, by omega⟩).symm
  · rw [registerWriteOk, hr]
    exact (decide_eq_false (by omega)).symm

theorem registerWrite_reg_same (s : State) (r : Reg) (v : Int) : (s.registerWrite r.val v).reg r = maskByte v := by
  rw [State.registerWrite, regOfIndex_reg]
  exact State.reg_setReg_same s r _

theorem registerWrite_reg_other (s : State) (i v : Int) (r : Reg) (h : i ≠ (r.val : Int)) :
    (s.registerWrite i v).reg r = s.reg r := by
  rcases regOfIndex_cases i with ⟨q, rfl, hq⟩ | ⟨_, hq⟩
  · rw [State.registerWrite, hq]
    exact State.reg_setReg_other s q r _ fun hrq => h (hrq ▸ rfl)
  · rw [State.registerWrite, hq]

/-- Settles O40: the index names one register, which takes the masked value, or none. -/
theorem registerWriteAnyIndex : Obligations.RegisterWriteAnyIndex := by
  intro s i v rest h
  refine ⟨(State.registerWrite { s with calls := rest } i v).x, ?next, ?written,
    registerWrite_reg_other { s with calls := rest } i v⟩
  case next =>
    rw [step_op s _ rest h, hostOp, State.registerWrite_eq, registerWriteOk_eq]
    rfl
  case written =>
    rintro r rfl
    rw [← maskByte_toNat]
    exact congrArg (fun b : Byte => (b.toNat : Int)) (registerWrite_reg_same { s with calls := rest } r v)

/-! ### Memory -/

theorem isAddress_eq (a : Int) : isAddress a = decide (0 ≤ a ∧ a ≤ 255) := rfl

theorem memoryWrite_mem_inside (s : State) (a v : Int) (h : 0 ≤ a ∧ a ≤ 255) :
    (s.memoryWrite a v).mem = Memory.write s.mem a.toNat (maskByte v) := by
  rw [State.memoryWrite, if_pos ((isAddress_iff a).2 h)]

theorem memoryWrite_outside (s : State) (a v : Int) (h : ¬ (0 ≤ a ∧ a ≤ 255)) : s.memoryWrite a v = s :=
  if_neg (mt (isAddress_iff a).1 h)

/-- What memory `m` holds after a write of `v` to `a` in `m₀`. -/
structure WrittenMemory (m₀ m : Memory) (a v : Int) : Prop where
  inside : 0 ≤ a → a ≤ 255 → ((Memory.read m a.toNat).toNat : Int) = v % 256
  others : ∀ n : Nat, (n : Int) ≠ a → Memory.read m n = Memory.read m₀ n
  outside : a < 0 ∨ 255 < a → m = m₀

theorem memoryWrite_written (s : State) (a v : Int) (hwf : Memory.wf s.mem = true) :
    WrittenMemory s.mem (s.memoryWrite a v).mem a v := by
  by_cases ha : 0 ≤ a ∧ a ≤ 255
  · rw [memoryWrite_mem_inside s a v ha]
    refine ⟨fun _ _ => ?_, fun n hn => ?_, fun hout => by omega⟩
    · rw [Memory.read_write _ _ _ _ hwf, if_pos rfl, maskByte_toNat]
    · rw [Memory.read_write _ _ _ _ hwf, if_neg fun hna => hn (by omega)]
  · rw [memoryWrite_outside s a v ha]
    exact ⟨fun hlow hhigh => absurd ⟨hlow, hhigh⟩ ha, fun _ _ => rfl, fun _ => rfl⟩

/-- Settles O42: the canonical form makes the write readable at its address alone. -/
theorem memoryWriteDirect : Obligations.MemoryWriteDirect := by
  intro s a v rest hinv h
  obtain ⟨hinside, hothers, houtside⟩ := memoryWrite_written { s with calls := rest } a v (s.inv_iff.1 hinv).memory
  refine ⟨_, ?next, hinside, hothers, houtside⟩
  case next =>
    rw [step_op s _ rest h, hostOp, State.memoryWrite_eq, isAddress_eq]
    rfl

theorem loadMemory_eq (s : State) (a v : Int) :
    s.loadMemory a v =
      { s with mem := (s.loadMemory a v).mem, abus := { address := a, source := .host },
               dbus := { value := v, source := .host, destination := .mem } } :=
  State.memoryWrite_eq ((s.setAddress a .host).transfer v .host .mem) a v

/-- Settles O43: `load_memory` is `Memory.write` behind both records, and the other three record what they are given. -/
theorem memoryCallsRecordOnBuses : Obligations.MemoryCallsRecordOnBuses := by
  intro s rest
  refine ⟨fun a v hinv h => ?load, fun a h => ?read, fun v src dst h => step_op s _ rest h, fun a src h => step_op s _ rest h⟩
  case load =>
    obtain ⟨hinside, hothers, houtside⟩ :=
      memoryWrite_written (({ s with calls := rest }.setAddress a .host).transfer v .host .mem) a v (s.inv_iff.1 hinv).memory
    refine ⟨({ s with calls := rest }.loadMemory a v).mem, ?_, hinside, hothers, houtside⟩
    rw [step_op s _ rest h, hostOp, loadMemory_eq, isAddress_eq]
    rfl
  case read =>
    exact ⟨s.memoryRead a, step_op s _ rest h, fun hlow hhigh => s.memoryRead_inside a ⟨hlow, hhigh⟩,
      s.memoryRead_outside a⟩

/-- Settles O44: the window is the list that both calls return. -/
theorem rangeReadAndSnapshot : Obligations.RangeReadAndSnapshot := by
  intro s start length rest
  refine ⟨s.memoryReadRange start length, ?length, ?elements, fun h => step_op s _ rest h, fun h => step_op s _ rest h⟩
  case length => rw [State.memoryReadRange, List.length_map, List.length_range]
  case elements =>
    intro k hk
    rw [State.memoryReadRange, List.getElem?_map, List.getElem?_range hk]
    rfl

/-! ### Who writes memory and the upper registers -/

theorem execState_mem (i : Instr) (s : State) : (execState i s).mem = s.mem := by
  obtain ⟨u, hu, ⟨o, d, s1, s2, w, c, v, _, _, heffect, _⟩ | ⟨w, c, v, _, heffect⟩⟩ := execState_cases i s
  · rw [heffect, hu.eq]; rfl
  · rw [heffect, hu.eq]; rfl

/-- R19: the destination of a well-formed instruction is one of R0 to R3, and a direct ALU call has none. -/
theorem execState_upper_reg (i : Instr) (s : State) (hwf : i.wellFormed = true) (r : Reg) (hr : 4 ≤ r.val) :
    (execState i s).reg r = s.reg r := by
  obtain ⟨u, hu, ⟨o, d, s1, s2, w, c, v, _, _, heffect, hwf'⟩ | ⟨w, c, v, _, heffect⟩⟩ := execState_cases i s
  · have hd := val_lt_four_of_wellFormed (hwf'.symm.trans hwf)
    have hne : r ≠ d := fun hrd => by subst hrd; omega
    rw [heffect, State.afterInstruction_reg_other _ _ _ _ _ _ _ hne, hu.eq]
    rfl
  · rw [heffect, hu.eq]; rfl

theorem hostOp_mem (o : HostOp) (s : State) (h : (HostCall.op o).writesMemory = false) : (hostOp o s).mem = s.mem := by
  cases o with
  | memoryWrite | loadMemory | resetCall => cases h
  | registerWrite i v => rw [hostOp, State.registerWrite_eq]; rfl
  | registerRead | memoryRead | memoryReadRange | readMemory | dataBusTransfer | addressBusSet | controlDecode | incrementPc
    | snapshot | adder | subtractor | multiplier | divider | fpuParse | fpuCreate | fpuAdd | fpuMultiply | halfAdder | fullAdder
    | oneBitSubtractor | multiplexer | srLatch | dLatch | gate => rfl

theorem hostOp_x (o : HostOp) (s : State) (h : (HostCall.op o).writesUpperRegisters = false) : (hostOp o s).x = s.x := by
  cases o with
  | registerWrite | resetCall => cases h
  | memoryWrite a v => rw [hostOp, State.memoryWrite_eq]; rfl
  | loadMemory a v => rw [hostOp, loadMemory_eq]; rfl
  | registerRead | memoryRead | memoryReadRange | readMemory | dataBusTransfer | addressBusSet | controlDecode | incrementPc
    | snapshot | adder | subtractor | multiplier | divider | fpuParse | fpuCreate | fpuAdd | fpuMultiply | halfAdder | fullAdder
    | oneBitSubtractor | multiplexer | srLatch | dLatch | gate => rfl

theorem callState_mem (c : HostCall) (s : State) (h : c.writesMemory = false) : (callState c s).mem = s.mem := by
  cases c with
  | executeInstruction b => exact execState_mem (decodeByte b) s
  | aluExecute sel a b => exact execState_mem (decodeSelect sel a b) s
  | op o => exact hostOp_mem o s h

theorem callState_upper_reg (c : HostCall) (s : State) (h : c.writesUpperRegisters = false) (r : Reg) (hr : 4 ≤ r.val) :
    (callState c s).reg r = s.reg r := by
  cases c with
  | executeInstruction b => exact execState_upper_reg (decodeByte b) s (wellFormed_decodeByte b) r hr
  | aluExecute sel a b => exact execState_upper_reg (decodeSelect sel a b) s (wellFormed_decodeSelect sel a b) r hr
  | op o =>
    show (hostOp o s).x[r.val] = s.x[r.val]
    simp only [hostOp_x o s h]

/-- Settles O45: by the call, its instruction's destination or its operation's own field. -/
theorem onlyHostWritesMemoryAndUpperRegisters : Obligations.OnlyHostWritesMemoryAndUpperRegisters := by
  intro s t c rest hcalls hstep
  rw [eq_callState_of_step hcalls hstep]
  refine ⟨fun hc a => ?_, fun hc r hr => callState_upper_reg c _ hc r hr⟩
  rw [State.memoryRead, State.memoryRead, callState_mem c _ hc]

end Sys2Proof.Machine
end

section
/-! The control unit, the counters and `reset()` (47_control_cpu.md section 1, 60_exceptions.md section 5, 70_reset_and_hazards.md). -/

namespace Sys2Proof.Machine

/-! ### Control unit -/

theorem opNameOf_iff : ∀ o : BitVec 2, (opNameOf o = .add ↔ o = 0) ∧ (opNameOf o = .sub ↔ o = 1) ∧
    (opNameOf o = .mul ↔ o = 2) ∧ (opNameOf o = .mov ↔ o = 3) := by decide

/-- Settles O48: the control unit becomes the decoded one, whose fields are digits of the byte. -/
theorem decodeCallLoadsFields : Obligations.DecodeCallLoadsFields := by
  intro s b rest h
  have hopcode : b.toNat / 64 % 4 = b.toNat / 64 := by have hb : b.toNat < 256 := b.isLt; omega
  exact ⟨s.cu.decoded b, step_op s _ rest h, rfl, rfl, (fieldOpcode_toNat b).trans hopcode.symm, regOfField_fieldDst_val b,
    regOfField_fieldSrc1_val b, regOfField_fieldSrc2_val b, opNameOf_iff (fieldOpcode b)⟩

/-- Settles O49: the counter is a Byte, so it wraps. -/
theorem incrementPcCall : Obligations.IncrementPcCall := fun s rest h =>
  ⟨s.cu.pc + 1, step_op s _ rest h, pc_succ_toNat s.cu.pc⟩

theorem core_run_succ (n : Nat) (s t : State) (h : step s = .next t) :
    Host.Core.run core (n + 1) s = Host.Core.run core n t := by
  have hcore : core.step s = .next t := h
  simp only [Host.Core.run, hcore]

/-- Settles O50: by induction on the calls, each adding one modulo 256. -/
theorem incrementPcManyTimes : Obligations.IncrementPcManyTimes := by
  intro n
  induction n with
  | zero =>
    intro s rest hcalls
    exact ⟨s, rfl, hcalls, (Nat.mod_eq_of_lt s.cu.pc.isLt).symm, rfl, rfl, rfl, rfl⟩
  | succ n ih =>
    intro s rest hcalls
    have hstep := step_op s .incrementPc _ hcalls
    obtain ⟨t, hrun, ht, hpc, hcycles, hx, hmem, halu⟩ :=
      ih (hostOp .incrementPc { s with calls := List.replicate n (.op .incrementPc) ++ rest }) rest rfl
    refine ⟨t, (core_run_succ n s _ hstep).trans hrun, ht, ?_, hcycles, hx, hmem, halu⟩
    have hone := pc_succ_toNat s.cu.pc
    have hpc' : t.cu.pc.toNat = ((s.cu.pc + 1).toNat + n) % 256 := hpc
    rw [hpc', hone]
    omega

/-! ### Cycle counter -/

theorem execState_cycles_i8 (i : Instr) (s : State) (h : i.format = .i8) :
    (execState i s).cycles = s.cycles + 1 ∧ (execState i s).cu.pc = s.cu.pc + 1 := by
  obtain ⟨u, o, d, s1, s2, w, c, v, hu, _, heffect, _⟩ := execState_i8 i s h
  rw [heffect, hu.eq]
  exact ⟨rfl, rfl⟩

theorem execState_cycles_alu3 (i : Instr) (s : State) (h : i.format = .alu3) :
    (execState i s).cycles = s.cycles ∧ (execState i s).cu.pc = s.cu.pc := by
  obtain ⟨u, w, c, v, hu, heffect⟩ := execState_alu3 i s h
  rw [heffect, hu.eq]
  exact ⟨rfl, rfl⟩

theorem hostOp_cycles (o : HostOp) (s : State) (h : o ≠ .resetCall) :
    (hostOp o s).cycles = s.cycles ∧ (o ≠ .incrementPc → (hostOp o s).cu.pc = s.cu.pc) := by
  cases o with
  | resetCall => exact absurd rfl h
  | incrementPc => exact ⟨rfl, fun hne => absurd rfl hne⟩
  | registerWrite i v => rw [hostOp, State.registerWrite_eq]; exact ⟨rfl, fun _ => rfl⟩
  | memoryWrite a v => rw [hostOp, State.memoryWrite_eq]; exact ⟨rfl, fun _ => rfl⟩
  | loadMemory a v => rw [hostOp, loadMemory_eq]; exact ⟨rfl, fun _ => rfl⟩
  | registerRead | memoryRead | memoryReadRange | readMemory | dataBusTransfer | addressBusSet | controlDecode | snapshot | adder
    | subtractor | multiplier | divider | fpuParse | fpuCreate | fpuAdd | fpuMultiply | halfAdder | fullAdder
    | oneBitSubtractor | multiplexer | srLatch | dLatch | gate => exact ⟨rfl, fun _ => rfl⟩

theorem pcTracksCycles_iff (s : State) : s.pcTracksCycles = true ↔ s.cycles % 256 = s.cu.pc.toNat :=
  decide_eq_true_iff

/-- R197 for a call that leaves both counters. -/
theorem pcTracksCycles_of_kept {s t : State} (hcycles : t.cycles = s.cycles) (hpc : t.cu.pc = s.cu.pc)
    (h : s.pcTracksCycles = true) : t.pcTracksCycles = true := by
  rw [pcTracksCycles_iff] at h ⊢
  rw [hcycles, hpc, h]

/-- R197 for a call that advances both counters. -/
theorem pcTracksCycles_of_advanced {s t : State} (hcycles : t.cycles = s.cycles + 1) (hpc : t.cu.pc = s.cu.pc + 1)
    (h : s.pcTracksCycles = true) : t.pcTracksCycles = true := by
  rw [pcTracksCycles_iff] at h ⊢
  rw [hcycles, hpc, pc_succ_toNat, ← h]
  omega

/-- Settles O51: an instruction byte advances both counters, `reset()` zeroes both, and any other call but `increment_pc` leaves
both. -/
theorem cycleCounterLaw : Obligations.CycleCounterLaw := by
  intro s t c rest hcalls hstep
  rw [eq_callState_of_step hcalls hstep]
  cases c with
  | executeInstruction b =>
    obtain ⟨hcycles, hpc⟩ := execState_cycles_i8 (decodeByte b) { s with calls := rest } (format_decodeByte b)
    exact ⟨fun _ => hcycles, nofun, nofun,
      fun _ htracks => pcTracksCycles_of_advanced (s := s) hcycles hpc htracks⟩
  | aluExecute sel a b =>
    obtain ⟨hcycles, hpc⟩ :=
      execState_cycles_alu3 (decodeSelect sel a b) { s with calls := rest } (format_decodeSelect sel a b)
    exact ⟨nofun, nofun, fun _ _ => hcycles,
      fun _ htracks => pcTracksCycles_of_kept (s := s) hcycles hpc htracks⟩
  | op o =>
    by_cases hreset : o = .resetCall
    · subst hreset
      exact ⟨nofun, fun _ => rfl, fun _ hne => absurd rfl hne, fun _ _ => rfl⟩
    · obtain ⟨hcycles, hpc⟩ := hostOp_cycles o { s with calls := rest } hreset
      exact ⟨nofun, fun hcall => absurd (HostCall.op.inj hcall) hreset, fun _ _ => hcycles,
        fun hne htracks => pcTracksCycles_of_kept (s := s) hcycles (hpc fun ho => hne (ho ▸ rfl)) htracks⟩

/-! ### Construction and reset -/

theorem reset_reg (r : Reg) : State.reset.reg r = 0 := by
  simp [State.reg, State.reset]

theorem reset_memoryRead (a : Int) : State.reset.memoryRead a = 0 := by
  unfold State.memoryRead
  split <;> rfl

/-- Settles O52: construction lists no entry, so every table reads its default. -/
theorem constructionValues : Obligations.ConstructionValues :=
  ⟨reset_reg, reset_memoryRead, rfl, rfl, rfl, rfl, rfl, rfl, rfl, fun _ => ⟨rfl, rfl⟩, fun _ _ => rfl, fun _ => rfl⟩

/-- Settles O53: the listed fields are those of construction, so a second call finds them as they are. -/
theorem resetZeroesListedState : Obligations.ResetZeroesListedState := fun s rest h =>
  ⟨_, step_op s _ rest h, reset_reg, reset_memoryRead, rfl, rfl, rfl, rfl, rfl, rfl, rfl⟩

/-- Settles O54: the scope the spec takes names none of these fields. -/
theorem resetLeavesTheRest : Obligations.ResetLeavesTheRest := fun s rest h =>
  ⟨_, step_op s _ rest h, rfl, rfl, rfl, rfl, fun _ => ⟨rfl, rfl⟩, fun _ _ => rfl, fun _ => rfl⟩

end Sys2Proof.Machine
end
